-- ==== Sys2Proof/Word.lean ====
section
/-! DEFINITION. The word types: a byte, and the 16 and 32 bit quantities of the host descriptors and the control
registers (spec 00_scope.md R9, 30_encoding.md R118). -/

namespace Sys2Proof

/-- A byte, "8 bits, an unsigned integer 0..255" (R9). -/
abbrev Byte := BitVec 8

/-- A 16 bit operand: `n`, `req`, `blen` (R118). -/
abbrev Half := BitVec 16

/-- A 32 bit operand or control register: `size`, `v` (R118), every CSR (10_state.md R37). -/
abbrev Word := BitVec 32

end Sys2Proof
end

