-- ==== Sys2Proof/Config.lean ====
section
/-! DEFINITION. What an implementation fixes (the elaboration parameters of 00_scope.md R7), the moves of the agents of
00_scope.md R13, and the free values: opaque constants with no body, which nothing in Lean can evaluate. -/

namespace Sys2Proof

namespace Config

/-- Which of the external encoders of 30_encoding.md R101 a configuration has. -/
inductive EncoderChoice where
  /-- the defaults of R102 -/
  | standard
  /-- functions supplied from outside, under the contract of R101 alone -/
  | external
deriving DecidableEq, Repr

/-- The elaboration parameters (00_scope.md R7) that are not constants. One value of this type is one configuration.
DESIGN CHOICE (log 1): the state carries it as a field that no step changes, so that a statement about every state is a
statement about every configuration. -/
structure Params where
  esc : Byte
  som : Byte
  eom : Byte
  ackOk : Byte
  pktTrlLen : Nat
  pktSeqOff : Nat
  maxPktData : Nat
  nCallers : Nat
  rxqCap : Nat
  maxPayload : Nat
  holeMapBits : Nat
  burstHoldsLink : Bool
  rxByteTimeoutReset : Word
  txDoneTimeoutReset : Word
  linkAcqTimeoutReset : Word
  sessionAcqTimeoutReset : Word
  pktRetryBudgetReset : Word
  pollBudgetReset : Word
  gapFillByteReset : Word
  encoders : EncoderChoice
  tlmIdBlockStatus : Byte
  tmLenBlockStatus : Nat
deriving DecidableEq, Repr

/-- The parameters that R7 fixes to one number. -/
abbrev tcAckLen : Nat := 4
abbrev ackStatusIx : Nat := 2
abbrev tmHdrLen : Nat := 3
abbrev pktHdrLen : Nat := 5
abbrev pktDataLenReset : Nat := 20

/-- The defaults of R7 and R102. The CSR reset values are those of the test configuration of 95_test_vectors.md
(DESIGN CHOICE, log 8); the marker values are marked by the spec as general knowledge (PRESUMED, log 1). -/
def standard : Params where
  esc := 0x1F
  som := 0x7F
  eom := 0xFF
  ackOk := 0x00
  pktTrlLen := 2
  pktSeqOff := 1
  maxPktData := 20
  nCallers := 2
  rxqCap := 512
  maxPayload := 256
  holeMapBits := 1024
  burstHoldsLink := true
  rxByteTimeoutReset := 10
  txDoneTimeoutReset := 10
  linkAcqTimeoutReset := 10
  sessionAcqTimeoutReset := 10
  pktRetryBudgetReset := 2
  pollBudgetReset := 0
  gapFillByteReset := 0
  encoders := .standard
  tlmIdBlockStatus := 0xF2
  tmLenBlockStatus := 5

end Config

/-- One atomic step of one agent of 00_scope.md R13. -/
inductive Move where
  /-- the host issues descriptor `desc` on port `c` (10_state.md R29, 30_encoding.md R103) -/
  | issue (c : Nat) (desc : List Byte)
  /-- the host collects the response of port `c` (R29) -/
  | collect (c : Nat)
  /-- host port `c` takes its next enabled step -/
  | port (c : Nat)
  /-- `RX_EVENT(b)` (60_exceptions.md R281), the byte a draw of `DEVICE` -/
  | rx (b : Byte)
  /-- `TX_EVENT` (R282) -/
  | tx
  /-- `TICK` (R283) -/
  | tick
  /-- `SINK` settles its answer to the next sink call that has none yet (10_state.md R52; `SINK ok`, `SINK fail` of
  30_encoding.md R116) -/
  | sink (ok : Bool)
  /-- `RESET` (70_reset_and_hazards.md R310) -/
  | reset
deriving DecidableEq, Repr, Inhabited

namespace Config

/-- DESIGN CHOICE (log 3), a free value: the move an agent makes when the state's `schedule` names none. "Any enabled
agent may take the next step" (R13): nothing constrains it. The argument is the state's draw counter. -/
opaque envMove : Nat → Move

/-- DESIGN CHOICE (log 9), a free value: the answer of `SINK` to a call it has settled no answer for (R52, U18). -/
opaque sinkAnswer : Nat → Bool

/-- DESIGN CHOICE (log 10), a free value: the content of an existing file after `SinkOpen`, "unspecified, any byte
sequence" (R52, U17). -/
opaque openedContent : Nat → List Byte

/-- DESIGN CHOICE (log 14), a free value: opcode and parameters of the externally encoded "load file download block"
telecommand, a function of (type, counter, offset, block_len) alone (R101). -/
opaque extLoadBlock : Byte → Byte → Nat → Nat → Byte × List Byte

/-- DESIGN CHOICE (log 14), a free value: opcode and parameters of the externally encoded "initiate download burst"
telecommand, a function of the packet data length alone (R101). -/
opaque extInitBurst : Nat → Byte × List Byte

/-- DESIGN CHOICE (log 14), a free value: the external status decoder's `(ready, param_error)`, a function of the reply
alone (R101). -/
opaque extBlockStatus : List Byte → Bool × Bool

/-- DESIGN CHOICE (log 15), a free value: the message-length byte of the default `encInitBurst` for a packet data
length above 255, which R102 does not state. -/
opaque wideLengthByte : Nat → Byte

/-- DESIGN CHOICE (log 7), a free value: what a CSRR shows of a register of the download that nothing has written since
reset, "which returns a draw" (10_state.md R55, R48 to R51; U11). -/
opaque unwrittenRegister : Nat → Nat

/-- DESIGN CHOICE (log 27), a free value: what `RX_LEVEL` shows of a count that does not fit its 32 bits, possible when
`RXQ_CAP` is that large (R8); 10_state.md R47 states nothing there. The argument is the count. -/
opaque wideLevel : Nat → Word

/-- DESIGN CHOICE (log 28), a free value: the 16 bit `req` that `TMSTATUS` expands to when `TM_LEN_BLOCK_STATUS` does not
fit it, possible when `MAX_PAYLOAD` is that large (30_encoding.md R101); R117 states nothing there. The argument is the
parameter. -/
opaque wideRequest : Nat → Half

end Config

end Sys2Proof
end

