-- ==== Sys2Proof/Machine/Capacity.lean ====
section
/-! DEFINITION. The constants derived from a configuration (00_scope.md R7, 30_encoding.md R114) and the constraints
every configuration must meet (00_scope.md R8, 30_encoding.md R101). -/

namespace Sys2Proof.Config

/-- `TXBUF_CAP = 2*MAX_PAYLOAD + 4` (R7). -/
def Params.txbufCap (g : Params) : Nat := 2 * g.maxPayload + 4

/-- `RXBUF_CAP = 2 + TM_HDR_LEN + 2*MAX_PAYLOAD + 2` (R7). -/
def Params.rxbufCap (g : Params) : Nat := 2 + tmHdrLen + 2 * g.maxPayload + 2

/-- `PKTBUF_CAP = PKT_HDR_LEN + MAX_PKT_DATA + PKT_TRL_LEN` (R7). -/
def Params.pktbufCap (g : Params) : Nat := pktHdrLen + g.maxPktData + g.pktTrlLen

/-- `DESC_CAP = 4 + 2*MAX_PAYLOAD` (R114). -/
def Params.descCap (g : Params) : Nat := 4 + 2 * g.maxPayload

/-- `PKT_LEN = PKT_HDR_LEN + PKT_DATA_LEN + PKT_TRL_LEN` (R7), for the packet data length `pdl` in force. -/
def Params.pktLen (g : Params) (pdl : Nat) : Nat := pktHdrLen + pdl + g.pktTrlLen

/-- The constraints of R8. -/
def Params.meetsR8 (g : Params) : Bool :=
  [g.esc != g.som, g.esc != g.eom, g.som != g.eom, decide (g.pktSeqOff + 1 < pktHdrLen),
   decide (1 ≤ pktDataLenReset), decide (pktDataLenReset ≤ g.maxPktData), decide (1 ≤ g.nCallers),
   decide (1 ≤ g.rxqCap), decide (1 ≤ g.maxPayload), decide (1 ≤ g.holeMapBits)].all id

/-- The constraints of R101 on the three device messages: a telecommand payload is non-empty and at most `MAX_PAYLOAD`
bytes long (9 and 3 bytes for the defaults of R102; the external ones meet it by construction, log 14), and
`1 ≤ TM_LEN_BLOCK_STATUS ≤ MAX_PAYLOAD`. -/
def Params.meetsR101 (g : Params) : Bool :=
  [decide (1 ≤ g.tmLenBlockStatus), decide (g.tmLenBlockStatus ≤ g.maxPayload),
   decide (g.encoders = .standard → 9 ≤ g.maxPayload)].all id

/-- The reset values of the control registers are legal values of them (10_state.md R37, R42, R43, R45). DEDUCED
(log 2): a reset value is a value the register can hold, and `PKT_DATA_LEN` is at most 16 bits wide. -/
def Params.resetsLegal (g : Params) : Bool :=
  [decide (g.pktRetryBudgetReset.toNat < 65536), decide (g.gapFillByteReset.toNat < 256),
   decide (g.maxPktData < 65536)].all id

/-- A configuration the spec gives a meaning to; one that breaks a constraint is refused (R8). -/
def Params.legal (g : Params) : Bool := [g.meetsR8, g.meetsR101, g.resetsLegal].all id

end Sys2Proof.Config
end

