-- ==== Sys2Proof/Syntax.lean ====
section
/-! DEFINITION. The eight host operations (spec/opcode_table.json, 30_encoding.md R103 to R111) with their operands, and
the status names of a response (R113). -/

namespace Sys2Proof

/-- A host operation, one constructor per row of the opcode table. -/
inductive Instr where
  /-- `STUFF`, format V (R104): byte-stuff the payload `p` -/
  | stuff (p : List Byte)
  /-- `DESTUFF`, format V (R105): destuff the sequence `q` -/
  | destuff (q : List Byte)
  /-- `TC`, format V (R106): telecommand, `p` the opcode followed by the parameters -/
  | tc (p : List Byte)
  /-- `TCNR`, format V (R107): telecommand, no reply read -/
  | tcnr (p : List Byte)
  /-- `TM`, format T (R108): telemetry request and reply -/
  | tm (tlmId : Byte) (req : Half)
  /-- `DL`, format D (R109): download a file -/
  | dl (type counter : Byte) (size : Word) (blen : Half)
  /-- `CSRW`, format W (R110): write a control register -/
  | csrw (index : Byte) (v : Word)
  /-- `CSRR`, format R (R111): read a control register -/
  | csrr (index : Byte)
deriving DecidableEq, Repr

/-- The statuses a response can carry (30_encoding.md R113; no other code is ever produced). -/
inductive Status where
  | ok
  | linkBusy
  | transportTimeout
  | malformedFrame
  | allocationFailure
  | deviceReportedError
  | filesystemFailure
  | sessionBusy
  | badDescriptor
  | protocolFault
deriving DecidableEq, Repr

/-- The control and status registers by name (10_state.md R37). -/
inductive Csr where
  | rxByteTimeout
  | txDoneTimeout
  | linkAcqTimeout
  | sessionAcqTimeout
  | pktRetryBudget
  | pktDataLen
  | pollBudget
  | gapFillByte
  | status
  | rxLevel
  | dlOffset
  | dlSize
  | dlBlockLen
  | dlIndex
deriving DecidableEq, Repr

end Sys2Proof
end

