-- ==== Sys2Proof/Decode.lean ====
section
/-! DEFINITION. Byte order (20_memory.md R63), the codes of the host encodings (30_encoding.md R103, R113, 10_state.md
R37), the decoder of a descriptor (R103 to R111, R114, R115), total on any bytes and rejecting by name, and after it the
encoder. -/

namespace Sys2Proof

open Config

/-! ## Byte order: little-endian everywhere (20_memory.md R63) -/

/-- `le16(s, k) = s[k] + 256*s[k+1]` (00_scope.md R9). -/
def le16 (s : List Byte) (k : Nat) : Nat := (s.getD k 0).toNat + 256 * (s.getD (k + 1) 0).toNat

/-- `le32(s, k)` (00_scope.md R9). -/
def le32 (s : List Byte) (k : Nat) : Nat :=
  (s.getD k 0).toNat + 256 * (s.getD (k + 1) 0).toNat + 65536 * (s.getD (k + 2) 0).toNat +
    16777216 * (s.getD (k + 3) 0).toNat

/-- The `count` low bytes of `v`, least significant first. -/
def leBytes : (count v : Nat) → List Byte
  | 0, _ => []
  | count + 1, v => BitVec.ofNat 8 v :: leBytes count (v / 256)

/-! ## Codes -/

/-- The status codes (R113). -/
def Status.code : Status → Byte
  | .ok => 0x00
  | .linkBusy => 0x01
  | .transportTimeout => 0x02
  | .malformedFrame => 0x03
  | .allocationFailure => 0x04
  | .deviceReportedError => 0x05
  | .filesystemFailure => 0x06
  | .sessionBusy => 0x07
  | .badDescriptor => 0x08
  | .protocolFault => 0x09

/-- The transport-failure class (60_exceptions.md R273). -/
def Status.transportFailure : Status → Bool
  | .transportTimeout => true
  | .malformedFrame => true
  | _ => false

/-- The index of a control register (10_state.md R37). -/
def Csr.index : Csr → Byte
  | .rxByteTimeout => 0x00
  | .txDoneTimeout => 0x01
  | .linkAcqTimeout => 0x02
  | .sessionAcqTimeout => 0x03
  | .pktRetryBudget => 0x04
  | .pktDataLen => 0x05
  | .pollBudget => 0x06
  | .gapFillByte => 0x07
  | .status => 0x10
  | .rxLevel => 0x11
  | .dlOffset => 0x12
  | .dlSize => 0x13
  | .dlBlockLen => 0x14
  | .dlIndex => 0x15

/-- The fourteen implemented control registers (20_memory.md R60). -/
def Csr.all : List Csr :=
  [.rxByteTimeout, .txDoneTimeout, .linkAcqTimeout, .sessionAcqTimeout, .pktRetryBudget, .pktDataLen, .pollBudget,
   .gapFillByte, .status, .rxLevel, .dlOffset, .dlSize, .dlBlockLen, .dlIndex]

/-- The control register at an index; `none` for a reserved index (R37). -/
def Csr.ofIndex (b : Byte) : Option Csr := Csr.all.find? (fun r => r.index == b)

/-- Whether a CSRW to register `r` with value `v` is legal (R37, R42, R43, R45 to R51): a read-only view takes no
write, `STATUS` takes any value, and a configuration register takes its legal values only. -/
def Csr.writeLegal (g : Params) (r : Csr) (v : Word) : Bool :=
  match r with
  | .rxByteTimeout => true
  | .txDoneTimeout => true
  | .linkAcqTimeout => true
  | .sessionAcqTimeout => true
  | .pktRetryBudget => decide (v.toNat < 65536)
  | .pktDataLen => decide (1 ≤ v.toNat) && decide (v.toNat ≤ g.maxPktData)
  | .pollBudget => true
  | .gapFillByte => decide (v.toNat < 256)
  | .status => true
  | .rxLevel => false
  | .dlOffset => false
  | .dlSize => false
  | .dlBlockLen => false
  | .dlIndex => false

/-- Byte 0 of an operation's descriptor (R103). -/
def Instr.opcode : Instr → Byte
  | .stuff _ => 0x01
  | .destuff _ => 0x02
  | .tc _ => 0x10
  | .tcnr _ => 0x11
  | .tm _ _ => 0x12
  | .dl _ _ _ _ => 0x20
  | .csrw _ _ => 0x30
  | .csrr _ => 0x31

/-- Cases (4), (5) and (6) of R114: the operand values that are legal. They are tested after the descriptor's length,
by the operation's first step, which answers `BAD_DESCRIPTOR` when this is false. -/
def Instr.operandsLegal (g : Params) : Instr → Bool
  | .stuff _ => true
  | .destuff _ => true
  | .tc p => !p.isEmpty
  | .tcnr p => !p.isEmpty
  | .tm _ _ => true
  | .dl _ _ size blen => size != 0 && blen != 0
  | .csrw index v =>
    match Csr.ofIndex index with
    | some r => r.writeLegal g v
    | none => false
  | .csrr index => (Csr.ofIndex index).isSome

/-! ## The decoder -/

/-- Why a descriptor is not an operation: cases (1) to (3) of R114. -/
inductive DecodeError where
  /-- (1) longer than `DESC_CAP`: the descriptor latch cannot hold it -/
  | tooLong
  /-- an empty descriptor, which cannot be issued; one that is let through is answered (R114, last sentences) -/
  | empty
  /-- (2) byte 0 is none of the eight codes -/
  | unknownOperation (op : Byte)
  /-- (3) the length is not the one the format requires -/
  | wrongLength
deriving DecidableEq, Repr

/-- The status an undecodable descriptor is answered with (R114). -/
def DecodeError.status : DecodeError → Status
  | .tooLong => .allocationFailure
  | .empty => .badDescriptor
  | .unknownOperation _ => .badDescriptor
  | .wrongLength => .badDescriptor

/-- Format V (R104 to R107, R115): exactly `3 + n` bytes, `n = le16(desc, 1)`; the operand is `desc[3 : 3+n]`. -/
def decodeV (mk : List Byte → Instr) (d : List Byte) : Except DecodeError Instr :=
  if d.length < 3 ∨ d.length ≠ 3 + le16 d 1 then .error .wrongLength else .ok (mk (d.drop 3))

/-- A format of a fixed length (T 4, D 9, W 6, R 2: R108 to R111, R115). -/
def decodeFixed (len : Nat) (i : Instr) (d : List Byte) : Except DecodeError Instr :=
  if d.length ≠ len then .error .wrongLength else .ok i

/-- The operation a latched descriptor `d` stands for, `len` being the length the host presented and `cap` being
`DESC_CAP` (R103 to R111), tested in the order of R114. -/
def decode (cap len : Nat) (d : List Byte) : Except DecodeError Instr :=
  if cap < len then .error .tooLong
  else match d with
  | [] => .error .empty
  | op :: _ =>
    if op = 0x01 then decodeV .stuff d
    else if op = 0x02 then decodeV .destuff d
    else if op = 0x10 then decodeV .tc d
    else if op = 0x11 then decodeV .tcnr d
    else if op = 0x12 then decodeFixed 4 (.tm (d.getD 1 0) (BitVec.ofNat 16 (le16 d 2))) d
    else if op = 0x20 then
      decodeFixed 9 (.dl (d.getD 1 0) (d.getD 2 0) (BitVec.ofNat 32 (le32 d 3)) (BitVec.ofNat 16 (le16 d 7))) d
    else if op = 0x30 then decodeFixed 6 (.csrw (d.getD 1 0) (BitVec.ofNat 32 (le32 d 2))) d
    else if op = 0x31 then decodeFixed 2 (.csrr (d.getD 1 0)) d
    else .error (.unknownOperation op)

/-! ## The encoder -/

/-- The descriptor of an operation (R104 to R111). -/
def encode : Instr → List Byte
  | .stuff p => 0x01 :: (leBytes 2 p.length ++ p)
  | .destuff q => 0x02 :: (leBytes 2 q.length ++ q)
  | .tc p => 0x10 :: (leBytes 2 p.length ++ p)
  | .tcnr p => 0x11 :: (leBytes 2 p.length ++ p)
  | .tm tlmId req => 0x12 :: tlmId :: leBytes 2 req.toNat
  | .dl type counter size blen => 0x20 :: type :: counter :: (leBytes 4 size.toNat ++ leBytes 2 blen.toNat)
  | .csrw index v => 0x30 :: index :: leBytes 4 v.toNat
  | .csrr index => [0x31, index]

/-- The `req` that `TMSTATUS` expands to (R117): `TM_LEN_BLOCK_STATUS`, and a free value where that does not fit the 16
bits of R108 (DESIGN CHOICE, log 28). -/
def statusRequest (len : Nat) : Half := if len < 65536 then BitVec.ofNat 16 len else wideRequest len

/-- The pseudo-operation `TMSTATUS` (R117). -/
def pseudoTmStatus (g : Params) : Instr := .tm g.tlmIdBlockStatus (statusRequest g.tmLenBlockStatus)

/-- The pseudo-operation `CLROVF` (R117). -/
def pseudoClrOvf : Instr := .csrw Csr.status.index 0x00000008

/-! ## A word of the opcode table -/

/-- The length of the descriptor that begins with the bytes `d` (R115), absent bytes read as 0; for an undefined code
the length of `d` itself. -/
def descriptorLength (d : List Byte) : Nat :=
  let op := d.getD 0 0
  if op = 0x01 ∨ op = 0x02 ∨ op = 0x10 ∨ op = 0x11 then 3 + le16 d 1
  else if op = 0x12 then 4
  else if op = 0x20 then 9
  else if op = 0x30 then 6
  else if op = 0x31 then 2
  else d.length

/-- The descriptor whose first `nbits` bits are `w`, bit 0 being the least significant bit of byte 0, every further
bit of it 0. -/
def tableDescriptor (nbits w : Nat) : List Byte :=
  let d := leBytes ((nbits + 7) / 8) w
  d ++ List.replicate (descriptorLength d - d.length) 0

/-- The operation the decoder reads from the opcode table's word `w`, under the default configuration. -/
def decodeTableWord (nbits w : Nat) : Option Instr :=
  let d := tableDescriptor nbits w
  match decode standard.descCap d.length d with
  | .ok i => some i
  | .error _ => none

end Sys2Proof
end

