-- ==== Sys2Proof/Machine/State.lean ====
section
/-! DEFINITION. The state of the block, exactly the list of 10_state.md R20 with the two external agents of R52 and R53,
plus the few fields of the model's own that INVENTORY.md names; the reasons a step can stop; the state after reset
(R55). -/

namespace Sys2Proof.Machine

open Sys2Proof Sys2Proof.Config

/-- `ph[c]`, the phase of a host port (10_state.md R29). -/
inductive Phase where
  | idle
  | acquire
  | encode
  | transmit
  | receive
  | release
  | run
  | done
deriving DecidableEq, Repr

/-- The model's own (log 4): where a port stands in its procedure while `ph[c] = RUN` (41_transport.md R150, R160 to
R162; 42_download.md R201). -/
inductive RunPos where
  /-- the descriptor is latched and nothing of the operation has run -/
  | start
  /-- `Converse` has returned the pair held in `ret` -/
  | ret
  /-- inside `WaitLock(session_owner, ·)` (R202) -/
  | session
  /-- the session lock has just been taken (R203) -/
  | create
  /-- the session registers are written; `SinkOpen` is next (R203) -/
  | opening
  /-- at the head of the block loop (R204) -/
  | request
  /-- at the head of the poll loop (R205) -/
  | poll
  /-- the block is ready; the burst is to be started (R206) -/
  | burst
  /-- at the head of the receive loop, `while i < npk` (R207) -/
  | loop
  /-- at the head of `ReadPacket`'s loop, `while tries > 0` (R208) -/
  | attempt
  /-- inside the `WaitRx` of one byte of a packet (R208) -/
  | packet
  /-- a whole packet is read; its counter is to be looked at (R211) -/
  | check
  /-- the counter is not below `i`: fill or data is next (R209, R210) -/
  | deliver
  /-- the receive loop has ended (R214, R217) -/
  | blockEnd
  /-- the last block is complete; `SinkClose` is next (R214) -/
  | close
  /-- `Abort` with the pair held in `ret` (R215) -/
  | abort
deriving DecidableEq, Repr

/-- A response: status and data (30_encoding.md R112). -/
structure Response where
  status : Status
  data : List Byte
deriving DecidableEq, Repr

/-- The registers of one host port (10_state.md R28, R29). -/
structure Port where
  /-- `desc[c]` -/
  desc : List Byte
  /-- the length the host presented with the descriptor (R114 (1), R115; log 12) -/
  descLen : Nat
  /-- `rsp[c]`; its data are not cut to the `2*MAX_PAYLOAD` bytes of R28 (log 26) -/
  rsp : Response
  /-- `t0[c]`, the begin time of the wait the port is in -/
  t0 : Nat
  /-- `T[c]`, the bound of the wait the port is in -/
  bound : Nat
  /-- whether the port is in a wait: "the wait the port is in, if any" (R28) -/
  waiting : Bool
  /-- `ph[c]` -/
  ph : Phase
  /-- the model's own (log 4): the position inside `RUN` -/
  pos : RunPos
  /-- the model's own (log 4): the loop index `k` of 41_transport.md R155 and 42_download.md R208 -/
  k : Nat
  /-- the model's own (log 4): the pair `(status, data)` a conversation or an abort carries (R150, R215) -/
  ret : Response
deriving DecidableEq, Repr

/-- `fde_state` (10_state.md R31). -/
inductive FdeState where
  | idle
  | blockRequested
  | blockReady
  | burstInProgress
  | blockComplete
deriving DecidableEq, Repr

/-- The eight configuration registers (10_state.md R37 to R45). -/
structure Csrs where
  rxByteTimeout : Word
  txDoneTimeout : Word
  linkAcqTimeout : Word
  sessionAcqTimeout : Word
  pktRetryBudget : Word
  pktDataLen : Word
  pollBudget : Word
  gapFillByte : Word
deriving DecidableEq, Repr

/-- What identifies a file of the sink: `(type, counter)` (10_state.md R52). -/
structure FileId where
  type : Byte
  counter : Byte
deriving DecidableEq, Repr

/-- The persistence sink as the model carries it (R52): the files as (identity, content) pairs in one canonical form,
identities strictly rising, and the file now open. -/
structure Sink where
  files : List (FileId × List Byte)
  cur : Option FileId
deriving DecidableEq, Repr

/-- Why the machine stops: a move that the spec says has no step (10_state.md R29; 93_implementation_defined.md U14,
treatment `stuck`). All are raised by a move of the host or of the scheduler, none by an operation's own effect, and all
are safe (log 6): where the spec has no step the model has no next state. -/
inductive Fault where
  /-- raised by `Move.issue` on a port that is not `IDLE`: "no such step"; safe -/
  | stuckIssue
  /-- raised by `Move.collect` on a port that is not `DONE`: "no such step"; safe -/
  | stuckCollect
  /-- raised by any move that names a port `c ≥ N_CALLERS`, which does not exist; safe -/
  | noSuchPort
deriving DecidableEq, Repr

/-- Why the model gives no meaning. -/
inductive Refusal where
  /-- raised by an arm of `exec` whose instruction has no meaning yet (none is left); safe -/
  | notModelled (mnemonic : String)
  /-- raised by `step` under a configuration that breaks a constraint of 00_scope.md R8: "A configuration that breaks
  one is refused; the spec gives it no meaning" (U15; log 2); safe -/
  | illegalConfiguration
deriving DecidableEq, Repr

/-- The state (10_state.md R20, R52, R53). Plain data. -/
structure State where
  /-- the elaboration parameters: no step changes them (R54; log 1) -/
  cfg : Params
  /-- `rxq` (R21), head first -/
  rxq : List Byte
  /-- `tx_done` (R22) -/
  txDone : Bool
  /-- `rx_overflow` (R23) -/
  rxOverflow : Bool
  /-- `link_owner` (R24) -/
  linkOwner : Option Nat
  /-- `txbuf` (R25), `TXBUF_CAP` bytes -/
  txbuf : List Byte
  /-- `txlen` (R25) -/
  txlen : Nat
  /-- `rxbuf` (R26), `RXBUF_CAP` bytes -/
  rxbuf : List Byte
  /-- `rxcnt` (R26) -/
  rxcnt : Nat
  /-- `ack` (R27), four bytes -/
  ack : List Byte
  /-- the host ports (R28), port `c` at index `c` -/
  ports : List Port
  /-- `session_owner` (R30) -/
  sessionOwner : Option Nat
  /-- `fde_state` (R31) -/
  fdeState : FdeState
  /-- `sink_open` (R32) -/
  sinkOpen : Bool
  /-- `dl_type` (R32) -/
  dlType : Byte
  /-- `dl_counter` (R32) -/
  dlCounter : Byte
  /-- `dl_size` (R32) -/
  dlSize : Word
  /-- `dl_offset` (R32), a natural number of 33 bits that never wraps -/
  dlOffset : Nat
  /-- `dl_block_len` (R32) -/
  dlBlockLen : Half
  /-- `dl_pdl` (R32) -/
  dlPdl : Word
  /-- `dl_fill` (R32) -/
  dlFill : Byte
  /-- `dl_retry` (R32) -/
  dlRetry : Word
  /-- `dl_polls` (R32) -/
  dlPolls : Word
  /-- `npk` (R33) -/
  npk : Nat
  /-- `i`, the expected packet index (R33) -/
  idx : Nat
  /-- `rem` (R33) -/
  rem : Nat
  /-- `seq` (R33) -/
  seq : Nat
  /-- `tries` (R33) -/
  tries : Nat
  /-- `polls` (R33) -/
  polls : Nat
  /-- `pktbuf` (R34), `PKTBUF_CAP` bytes -/
  pktbuf : List Byte
  /-- `hole_map` (R35), `HOLE_MAP_BITS` bits -/
  holeMap : List Bool
  /-- `now` (R36) -/
  now : Nat
  /-- the configuration registers (R37) -/
  csr : Csrs
  /-- `sink` (R52) -/
  sink : Sink
  /-- `wire_out` (R53), oldest first -/
  wireOut : List (List Byte)
  /-- the model's own (log 4): the port whose step is being taken -/
  actor : Nat
  /-- the model's own (log 3): the agents' next moves, oldest first -/
  schedule : List Move
  /-- the model's own (log 9): answers `SINK` has settled for its next calls -/
  sinkAnswers : List Bool
  /-- the model's own (log 3, 7, 9, 10): a fresh argument for the next free value -/
  draws : Nat
  /-- the model's own (log 11): the run is marked faulty (93_implementation_defined.md U7) -/
  protocolFaulted : Bool
  /-- the model's own (log 7): a download has latched its session registers since reset (R48) -/
  sessionLatched : Bool
  /-- the model's own (log 7): a download has set `i` since reset (R51, R55) -/
  indexSet : Bool
  /-- the model's own (log 22): the responses the host has collected, each with its port, oldest first -/
  collected : List (Nat × Response)
deriving DecidableEq, Repr

/-- What a register of bytes that R55 leaves unspecified holds at reset. DESIGN CHOICE (log 7). -/
def Port.reset : Port where
  desc := []
  descLen := 0
  rsp := ⟨.ok, []⟩
  t0 := 0
  bound := 0
  waiting := false
  ph := .idle
  pos := .start
  k := 0
  ret := ⟨.ok, []⟩

/-- The reset values of the configuration registers (R37, R55). -/
def Csrs.reset (g : Params) : Csrs where
  rxByteTimeout := g.rxByteTimeoutReset
  txDoneTimeout := g.txDoneTimeoutReset
  linkAcqTimeout := g.linkAcqTimeoutReset
  sessionAcqTimeout := g.sessionAcqTimeoutReset
  pktRetryBudget := g.pktRetryBudgetReset
  pktDataLen := BitVec.ofNat 32 pktDataLenReset
  pollBudget := g.pollBudgetReset
  gapFillByte := g.gapFillByteReset

/-- The state right after reset under configuration `g`: the table of R55, zeros where it says "unspecified" (DESIGN
CHOICE, log 7), an empty sink and wire history (DESIGN CHOICE, log 21), nothing scheduled (log 3). -/
def State.resetWith (g : Params) : State where
  cfg := g
  rxq := []
  txDone := false
  rxOverflow := false
  linkOwner := none
  txbuf := List.replicate g.txbufCap 0
  txlen := 0
  rxbuf := List.replicate g.rxbufCap 0
  rxcnt := 0
  ack := List.replicate tcAckLen 0
  ports := List.replicate g.nCallers Port.reset
  sessionOwner := none
  fdeState := .idle
  sinkOpen := false
  dlType := 0
  dlCounter := 0
  dlSize := 0
  dlOffset := 0
  dlBlockLen := 0
  dlPdl := 0
  dlFill := 0
  dlRetry := 0
  dlPolls := 0
  npk := 0
  idx := 0
  rem := 0
  seq := 0
  tries := 0
  polls := 0
  pktbuf := List.replicate g.pktbufCap 0
  holeMap := List.replicate g.holeMapBits false
  now := 0
  csr := Csrs.reset g
  sink := ⟨[], none⟩
  wireOut := []
  actor := 0
  schedule := []
  sinkAnswers := []
  draws := 0
  protocolFaulted := false
  sessionLatched := false
  indexSet := false
  collected := []

/-- The machine right after reset, under the default configuration of 00_scope.md R7 (log 1, 8). -/
def State.reset : State := State.resetWith Config.standard

end Sys2Proof.Machine
end

