-- ==== Sys2Proof/Machine/Codec.lean ====
section
/-! DEFINITION. The Frame Codec (40_frame_codec.md R130 to R137), the frame built with it (30_encoding.md R91), and the
two host operations STUFF and DESTUFF are over these functions. -/

namespace Sys2Proof.Machine

open Sys2Proof Sys2Proof.Config

/-- `stuff(p)` (R130): every byte equal to the marker `esc` twice, every other byte once. -/
def stuff (esc : Byte) : List Byte → List Byte
  | [] => []
  | b :: p => if b = esc then esc :: esc :: stuff esc p else b :: stuff esc p

/-- `destuff(s)` (R132): `none` is the malformed frame of R133, a marker that is the last byte; the byte after a marker
is skipped without being looked at (R134). -/
def destuff (esc : Byte) : List Byte → Option (List Byte)
  | [] => some []
  | [b] => if b = esc then none else some [b]
  | b :: x :: s =>
    if b = esc then (destuff esc s).map (esc :: ·)
    else (destuff esc (x :: s)).map (b :: ·)

/-- `frame(p) = [ESC, SOM] ++ stuff(p) ++ [ESC, EOM]` (R91, R93, R95). -/
def frame (g : Params) (p : List Byte) : List Byte := g.esc :: g.som :: (stuff g.esc p ++ [g.esc, g.eom])

end Sys2Proof.Machine
end

