-- ==== Sys2Proof/Machine/Operands.lean ====
section
/-! DEFINITION. Every operand form the block reads from a buffer or sends: the burst packet (30_encoding.md R98, R99), the
acknowledgment (R94), the telemetry reply (R96, R97), the three device messages of the download engine (R101, R102), and
the 32 bit value of a control register as response data (R112). -/

namespace Sys2Proof.Machine

open Sys2Proof Sys2Proof.Config

/-- `le16(pktbuf, PKT_SEQ_OFF)` (R99). -/
def packetCounter (g : Params) (pktbuf : List Byte) : Nat := le16 pktbuf g.pktSeqOff

/-- `pktbuf[PKT_HDR_LEN : PKT_HDR_LEN + k]` (42_download.md R209). -/
def packetData (pktbuf : List Byte) (k : Nat) : List Byte := (pktbuf.drop pktHdrLen).take k

/-- `error_status` of the acknowledgment (R94). -/
def ackStatus (ack : List Byte) : Byte := ack.getD ackStatusIx 0

/-- The end test of R97 after `n` bytes have been stored. -/
def endPair (g : Params) (rxbuf : List Byte) (n : Nat) : Bool :=
  decide (2 ≤ n) && rxbuf.getD (n - 2) 0 == g.esc && rxbuf.getD (n - 1) 0 == g.eom

/-- The bytes of a reply of `n` bytes that are destuffed, `rxbuf[2 + TM_HDR_LEN : n - 2]` (R96, 41_transport.md R157). -/
def replyBody (rxbuf : List Byte) (n : Nat) : List Byte := (rxbuf.take (n - 2)).drop (2 + tmHdrLen)

/-- `ceil_div(a, b)` (00_scope.md R9). -/
def ceilDiv (a b : Nat) : Nat := (a + b - 1) / b

/-- `[v[7:0], v[15:8], v[23:16], v[31:24]]` (R112, 43_system.md R251). -/
def wordBytes (v : Word) : List Byte := leBytes 4 v.toNat

/-- An externally encoded payload: an opcode and at most `MAX_PAYLOAD - 1` parameter bytes, so that the contract of R101
(non-empty, at most `MAX_PAYLOAD` long) holds by construction (log 14). -/
def contractPayload (g : Params) (m : Byte × List Byte) : List Byte := m.1 :: m.2.take (g.maxPayload - 1)

/-- The message-length byte of the default `encInitBurst` (R102): the packet data length itself; R102 states no byte
for a length above 255, which is a free value (log 15). -/
def lengthByte (pdl : Nat) : Byte := if pdl < 256 then BitVec.ofNat 8 pdl else wideLengthByte pdl

/-- `encLoadBlock(type, counter, offset, block_len)` (R101, R102). -/
def encLoadBlock (g : Params) (type counter : Byte) (offset blockLen : Nat) : List Byte :=
  match g.encoders with
  | .standard => 0x70 :: type :: counter :: (leBytes 4 offset ++ leBytes 2 blockLen)
  | .external => contractPayload g (extLoadBlock type counter offset blockLen)

/-- `encInitBurst(pdl)` (R101, R102). -/
def encInitBurst (g : Params) (pdl : Nat) : List Byte :=
  match g.encoders with
  | .standard => [0x77, lengthByte pdl, 0x01]
  | .external => contractPayload g (extInitBurst pdl)

/-- `decBlockStatus(bytes) = (ready, param_error)` (R101, R102). -/
def decBlockStatus (g : Params) (reply : List Byte) : Bool × Bool :=
  match g.encoders with
  | .standard => ((reply.getD 0 0).getLsbD 0, (reply.getD 0 0).getLsbD 1)
  | .external => extBlockStatus reply

end Sys2Proof.Machine
end

