-- ==== Sys2Proof/Machine/Flags.lean ====
section
/-! DEFINITION. The flags and status views of the block: the `STATUS` word and the other read-only views (10_state.md R46
to R51), the read of a control register and its write. -/

namespace Sys2Proof.Machine

open Sys2Proof Sys2Proof.Config

/-- The code of a download state (R31). -/
def FdeState.code : FdeState → Nat
  | .idle => 0
  | .blockRequested => 1
  | .blockReady => 2
  | .burstInProgress => 3
  | .blockComplete => 4

/-- The `STATUS` word (R46): bit 0 `link_locked`, bit 1 `session_locked`, bit 2 `tx_done`, bit 3 `rx_overflow`, bits
[6:4] `fde_state`, bit 7 `sink_open`, the others 0. -/
def statusWord (s : State) : Word :=
  BitVec.ofNat 32
    (s.linkOwner.isSome.toNat + 2 * s.sessionOwner.isSome.toNat + 4 * s.txDone.toNat + 8 * s.rxOverflow.toNat +
      16 * s.fdeState.code + 128 * s.sinkOpen.toNat)

/-- A register of the download as its view shows it: its value once something has written it since reset, a free value
before (R48 to R51, R55; log 7). -/
def shown (s : State) (written : Bool) (v : Nat) : Nat := if written then v else unwrittenRegister s.draws

/-- The view of `r` shows a free value: nothing has written its register since reset (R48 to R51, R55; log 7). -/
def viewUnwritten (s : State) : Csr → Bool
  | .dlOffset => !s.sessionLatched
  | .dlSize => !s.sessionLatched
  | .dlBlockLen => !s.sessionLatched
  | .dlIndex => !s.indexSet
  | .rxByteTimeout => false
  | .txDoneTimeout => false
  | .linkAcqTimeout => false
  | .sessionAcqTimeout => false
  | .pktRetryBudget => false
  | .pktDataLen => false
  | .pollBudget => false
  | .gapFillByte => false
  | .status => false
  | .rxLevel => false

/-- The free value a CSRR of `r` shows, if it shows one, is used up: the next is another draw (log 7). -/
def drawView (s : State) (r : Csr) : State := if viewUnwritten s r then { s with draws := s.draws + 1 } else s

/-- `RX_LEVEL` for a queue of `n` bytes (R47): the number itself, and a free value where it does not fit the 32 bits of
the register (DESIGN CHOICE, log 27). -/
def levelWord (n : Nat) : Word := if n < 4294967296 then BitVec.ofNat 32 n else wideLevel n

/-- `csr[r]` as a CSRR reads it (R37 to R51). -/
def csrRead (s : State) : Csr → Word
  | .rxByteTimeout => s.csr.rxByteTimeout
  | .txDoneTimeout => s.csr.txDoneTimeout
  | .linkAcqTimeout => s.csr.linkAcqTimeout
  | .sessionAcqTimeout => s.csr.sessionAcqTimeout
  | .pktRetryBudget => s.csr.pktRetryBudget
  | .pktDataLen => s.csr.pktDataLen
  | .pollBudget => s.csr.pollBudget
  | .gapFillByte => s.csr.gapFillByte
  | .status => statusWord s
  | .rxLevel => levelWord s.rxq.length
  | .dlOffset => BitVec.ofNat 32 (shown s s.sessionLatched s.dlOffset)
  | .dlSize => BitVec.ofNat 32 (shown s s.sessionLatched s.dlSize.toNat)
  | .dlBlockLen => BitVec.ofNat 32 (shown s s.sessionLatched s.dlBlockLen.toNat % 65536)
  | .dlIndex => BitVec.ofNat 32 (shown s s.indexSet s.idx % 131072)

/-- `csr[r] <- v` for a configuration register (43_system.md R250); a view has no storage and is left alone. -/
def csrWrite (c : Csrs) (r : Csr) (v : Word) : Csrs :=
  match r with
  | .rxByteTimeout => { c with rxByteTimeout := v }
  | .txDoneTimeout => { c with txDoneTimeout := v }
  | .linkAcqTimeout => { c with linkAcqTimeout := v }
  | .sessionAcqTimeout => { c with sessionAcqTimeout := v }
  | .pktRetryBudget => { c with pktRetryBudget := v }
  | .pktDataLen => { c with pktDataLen := v }
  | .pollBudget => { c with pollBudget := v }
  | .gapFillByte => { c with gapFillByte := v }
  | .status => c
  | .rxLevel => c
  | .dlOffset => c
  | .dlSize => c
  | .dlBlockLen => c
  | .dlIndex => c

/-- The effect of a CSRW to `STATUS` (R46): bit 3 of the value clears `rx_overflow`; nothing else happens. -/
def clearOverflow (s : State) (v : Word) : State :=
  if v.getLsbD 3 then { s with rxOverflow := false } else s

end Sys2Proof.Machine
end

