-- ==== Sys2Proof/Machine/Ops.lean ====
section
/-! DEFINITION. The named operations over the block's spaces and registers (20_memory.md): the port registers and phases,
the bounded wait (00_scope.md R11), the receive queue, `Send`, the staging buffers, the locks, the sink, the response,
the failure exits with collect beside them, and the events. -/

namespace Sys2Proof.Machine

open Sys2Proof Sys2Proof.Config

/-- The outcome of a step. -/
abbrev Result := Host.Outcome State Fault Refusal

/-! ## The acting port -/

/-- Writes the registers of the acting port. -/
def State.putPort (s : State) (p : Port) : State := { s with ports := s.ports.set s.actor p }

/-- Runs a port's step on the registers of the acting port; there is no port `c ≥ N_CALLERS` (10_state.md R28). -/
def State.withPort (s : State) (f : Port → Result) : Result :=
  match s.ports[s.actor]? with
  | none => .fault .noSuchPort
  | some p => f p

/-- `ph[c] <- ph`, no wait. -/
def Port.enter (p : Port) (ph : Phase) : Port := { p with ph := ph, waiting := false }

/-- The port runs outside a conversation, at position `pos`, no wait (10_state.md R29). -/
def Port.runAt (p : Port) (pos : RunPos) : Port := { p with ph := .run, pos := pos, waiting := false }

/-- A wait begins (00_scope.md R11): the bound read from its CSR and the begin time are latched together. -/
def Port.beginWait (p : Port) (now : Nat) (bound : Word) : Port :=
  { p with t0 := now, bound := bound.toNat, waiting := true }

/-- `now − t0 ≥ T` (00_scope.md R11). -/
def Port.timedOut (p : Port) (now : Nat) : Bool := decide (p.bound ≤ now - p.t0)

/-- The bounded wait (00_scope.md R11, D4): the event step when the event holds (`event` is the state after the
consumption and what follows it), else the timeout step when the bound has passed, else no step: the port keeps waiting
(60_exceptions.md R297; log 5). -/
def onWait (p : Port) (s : State) (event : Option State) (timeout : State) : Result :=
  match event with
  | some s' => .next s'
  | none => if p.timedOut s.now then .next timeout else .next s

/-! ## Response and failure exit -/

/-- `rsp[c] <- (status, data)`, `ph[c] <- DONE` (30_encoding.md R112, 70_reset_and_hazards.md R329). DESIGN CHOICE
(log 26): all the data R112 gives are kept. For `MAX_PAYLOAD = 1` the four bytes of `TC`, `DL` and `CSRR` exceed the
`2*MAX_PAYLOAD` bytes of 10_state.md R28 and 20_memory.md R60, and the spec does not say which of the two yields. -/
def Port.finish (p : Port) (st : Status) (data : List Byte) : Port :=
  { p with rsp := ⟨st, data⟩, ph := .done, pos := .start, waiting := false }

/-- `respond(c, status, data)` (00_scope.md R10): latches the response of the acting port and ends the operation. -/
def respond (s : State) (p : Port) (st : Status) (data : List Byte) : State := s.putPort (p.finish st data)

/-- `raise <Error>` of an operation that holds no lock (00_scope.md R10; 60_exceptions.md R287): the status with empty
data (30_encoding.md R112) is the last effect. -/
def raiseError (s : State) (p : Port) (st : Status) : State := respond s p st []

/-- The failure and success exit of a conversation that holds the link, `Exit(status, data)` (41_transport.md R150,
R158; 60_exceptions.md R287): the pair is kept and `ph[c] <- RELEASE`. -/
def Port.exit (p : Port) (st : Status) (data : List Byte) : Port :=
  { p with ret := ⟨st, data⟩, ph := .release, waiting := false }

/-- A conversation returns the pair to its operation with `ph[c] <- RUN` (R150). -/
def Port.returning (p : Port) (r : Response) : Port := { p with ret := r, ph := .run, pos := .ret, waiting := false }

/-- The failure exit of a download, `Abort(status, data)` (42_download.md R215; 60_exceptions.md R288), entered. -/
def Port.aborting (p : Port) (st : Status) (data : List Byte) : Port :=
  { p with ret := ⟨st, data⟩, ph := .run, pos := .abort, waiting := false }

/-- The return from an operation and from its error (60_exceptions.md R290): the host collects the response, `ph[c]:
DONE → IDLE` (10_state.md R29); on any other phase there is no such step (U14; log 6). -/
def collect (c : Nat) (s : State) : Result :=
  match s.ports[c]? with
  | none => .fault .noSuchPort
  | some p =>
    if p.ph = .done then
      .next { s with ports := s.ports.set c (p.enter .idle), collected := s.collected ++ [(c, p.rsp)] }
    else .fault .stuckCollect

/-- Issue (30_encoding.md R103, 10_state.md R29, 20_memory.md R70): the descriptor is latched whole, as far as the latch
holds it, with the length presented (log 12), and `ph[c]: IDLE → RUN`; on any other phase there is no such step (U14,
D39; log 6). -/
def issue (c : Nat) (d : List Byte) (s : State) : Result :=
  match s.ports[c]? with
  | none => .fault .noSuchPort
  | some p =>
    if p.ph = .idle then
      .next { s with
        ports := s.ports.set c { p.runAt .start with desc := d.take s.cfg.descCap, descLen := d.length } }
    else .fault .stuckIssue

/-! ## The receive queue and the events -/

/-- `RxPush(b)` (20_memory.md R64, R65): append, or, when the queue is full, drop `b` and set `rx_overflow`. -/
def rxPush (b : Byte) (s : State) : State :=
  if s.rxq.length < s.cfg.rxqCap then { s with rxq := s.rxq ++ [b] } else { s with rxOverflow := true }

/-- `RxPop()` (20_memory.md R64): the head and the state without it; `none` when the queue is empty. -/
def rxPop (s : State) : Option (Byte × State) :=
  match s.rxq with
  | [] => none
  | b :: q => some (b, { s with rxq := q })

/-- `TX_EVENT` (60_exceptions.md R282). -/
def txEvent (s : State) : State := { s with txDone := true }

/-- `TICK` (60_exceptions.md R283). -/
def tick (s : State) : State := { s with now := s.now + 1 }

/-! ## Staging buffers and the transmit path -/

/-- `buf[0 : len(bs)] <- bs` on a buffer of fixed capacity. -/
def writePrefix (buf bs : List Byte) : List Byte := (bs ++ buf.drop bs.length).take buf.length

/-- `Send(txbuf[0 : txlen])` together with `tx_done <- 0` (41_transport.md R154, 20_memory.md R67). -/
def sendFrame (s : State) : State :=
  { s with txDone := false, wireOut := s.wireOut ++ [s.txbuf.take s.txlen] }

/-! ## The locks (20_memory.md R71, R72, R75) -/

/-- The event step of `WaitLock(link_owner, ·)`: test `none`, set owner. -/
def takeLink (s : State) : Option State :=
  match s.linkOwner with
  | none => some { s with linkOwner := some s.actor }
  | some _ => none

/-- `if link_owner = c: link_owner <- none` (42_download.md R217). -/
def freeLink (s : State) : State := if s.linkOwner = some s.actor then { s with linkOwner := none } else s

/-- The event step of `WaitLock(session_owner, ·)`. -/
def takeSession (s : State) : Option State :=
  match s.sessionOwner with
  | none => some { s with sessionOwner := some s.actor }
  | some _ => none

/-- The event step of `WaitTxDone`: test 1, set 0. -/
def takeTxDone (s : State) : Option State := if s.txDone then some { s with txDone := false } else none

/-! ## The sink (10_state.md R52, 20_memory.md R69) -/

/-- The place of a file identity in the canonical order of the sink's files. -/
def FileId.num (f : FileId) : Nat := f.type.toNat * 256 + f.counter.toNat

/-- The content of a file; `none` when the sink has no entry for it. -/
def filesGet (f : FileId) : List (FileId × List Byte) → Option (List Byte)
  | [] => none
  | (f', bs) :: rest => if f' = f then some bs else filesGet f rest

/-- Sets the content of a file, keeping the identities strictly rising. -/
def filesPut (f : FileId) (bs : List Byte) : List (FileId × List Byte) → List (FileId × List Byte)
  | [] => [(f, bs)]
  | (f', bs') :: rest =>
    if f.num < f'.num then (f, bs) :: (f', bs') :: rest
    else if f' = f then (f, bs) :: rest
    else (f', bs') :: filesPut f bs rest

/-- The content of a file in a state. -/
def fileContent (s : State) (f : FileId) : Option (List Byte) := filesGet f s.sink.files

/-- The answer of `SINK` to one call (R52, U18): the one it has settled, else a free value (log 9). -/
def sinkDraw (s : State) : Bool × State :=
  match s.sinkAnswers with
  | ok :: rest => (ok, { s with sinkAnswers := rest })
  | [] => (sinkAnswer s.draws, { s with draws := s.draws + 1 })

/-- `SINK` settles an answer ahead of the call it answers (30_encoding.md R116). -/
def sinkSettle (ok : Bool) (s : State) : State := { s with sinkAnswers := s.sinkAnswers ++ [ok] }

/-- What `SinkOpen` does on `ok` (R52): the file becomes current; an absent one starts empty, an existing one holds any
byte sequence (U17; log 10). -/
def sinkOpened (f : FileId) (s : State) : State :=
  match fileContent s f with
  | none => { s with sink := ⟨filesPut f [] s.sink.files, some f⟩ }
  | some _ =>
    { s with sink := ⟨filesPut f (openedContent s.draws) s.sink.files, some f⟩, draws := s.draws + 1 }

/-- `SinkOpen(t, c)` (R52). -/
def sinkOpen (f : FileId) (s : State) : Bool × State :=
  match sinkDraw s with
  | (true, s') => (true, sinkOpened f s')
  | (false, s') => (false, s')

/-- What `SinkWrite(bs)` does on `ok` (R52): append to the current file. -/
def sinkAppend (bs : List Byte) (s : State) : State :=
  match s.sink.cur with
  | none => s
  | some f => { s with sink := { s.sink with files := filesPut f ((fileContent s f).getD [] ++ bs) s.sink.files } }

/-- `SinkWrite(bs)` (R52). -/
def sinkWrite (bs : List Byte) (s : State) : Bool × State :=
  match sinkDraw s with
  | (true, s') => (true, sinkAppend bs s')
  | (false, s') => (false, s')

/-- `SinkWrite(bs)` if `bs` is not empty; "When k = 0 no sink call is made" (42_download.md R209, D31). -/
def sinkWriteSome (bs : List Byte) (s : State) : Bool × State :=
  match bs with
  | [] => (true, s)
  | b :: rest => sinkWrite (b :: rest) s

/-- `SinkClose()` (R52): the file is no longer current on `ok` and on `fail` alike; with it `sink_open <- 0`. -/
def sinkClose (s : State) : Bool × State :=
  match sinkDraw s with
  | (ok, s') => (ok, { s' with sink := { s'.sink with cur := none }, sinkOpen := false })

/-! ## Reset (70_reset_and_hazards.md R310 to R312) -/

/-- `RESET`: the table of 10_state.md R55 in one step. The sink, the wire history and the model's own record of the
environment are not part of the block and stay (R55, R311; log 16). -/
def resetBlock (s : State) : State :=
  { State.resetWith s.cfg with
    sink := s.sink
    wireOut := s.wireOut
    schedule := s.schedule
    sinkAnswers := s.sinkAnswers
    draws := s.draws
    protocolFaulted := s.protocolFaulted
    collected := s.collected }

/-! ## The canonical form of the spaces (20_memory.md R60) -/

/-- The form of every space of bytes: each buffer has its capacity, the queue and the descriptor latches are within
theirs, the hole map has its bits, the sink's file identities are strictly rising (log 18). `rsp` has no bound here (log 26). -/
def Memory.wf (s : State) : Bool :=
  [decide (s.rxq.length ≤ s.cfg.rxqCap), decide (s.txbuf.length = s.cfg.txbufCap), decide (s.txlen ≤ s.cfg.txbufCap),
   decide (s.rxbuf.length = s.cfg.rxbufCap), decide (s.ack.length = tcAckLen),
   decide (s.pktbuf.length = s.cfg.pktbufCap), decide (s.holeMap = List.replicate s.cfg.holeMapBits false),
   decide (s.ports.length = s.cfg.nCallers), s.ports.all (fun p => decide (p.desc.length ≤ s.cfg.descCap)),
   decide ((s.sink.files.map (fun e => e.1.num)).Pairwise (· < ·))].all id

end Sys2Proof.Machine
end

