-- ==== Sys2Proof/Machine/CodecOps.lean ====
section
/-! DEFINITION. The host operations of the Frame Codec: STUFF and DESTUFF (40_frame_codec.md R138, R139). Both complete
in one step. -/

namespace Sys2Proof.Machine

open Sys2Proof Sys2Proof.Config

/-- An operation that completes in one step: at its start it does `body`; at any other place it has no step. -/
def oneStep (s : State) (body : Port → State) : Result :=
  s.withPort fun p => if p.ph = .run ∧ p.pos = .start then .next (body p) else .next s

/-- `STUFF` (R138). -/
def execStuff (payload : List Byte) (s : State) : Result :=
  oneStep s fun p =>
    if s.cfg.maxPayload < payload.length then raiseError s p .allocationFailure
    else respond s p .ok (stuff s.cfg.esc payload)

/-- `DESTUFF` (R139). -/
def execDestuff (q : List Byte) (s : State) : Result :=
  oneStep s fun p =>
    if 2 * s.cfg.maxPayload < q.length then raiseError s p .allocationFailure
    else
      match destuff s.cfg.esc q with
      | none => raiseError s p .malformedFrame
      | some payload => respond s p .ok payload

end Sys2Proof.Machine
end

