-- ==== Sys2Proof/Machine/Converse.lean ====
section
/-! DEFINITION. The conversation `Converse(c, kind, p, req, hold)` (41_transport.md R150 to R159), one definition per step.
The operations TC, TCNR, TM and the download engine run it on the acting port. -/

namespace Sys2Proof.Machine

open Sys2Proof Sys2Proof.Config

/-- `kind` of a conversation (R150). -/
inductive Kind where
  | tc
  | tcnr
  | tm
deriving DecidableEq, Repr

/-- The arguments of a conversation (R150). -/
structure Call where
  kind : Kind
  payload : List Byte
  req : Nat
  hold : Bool
deriving DecidableEq, Repr

/-- Entry: `ph[c] <- ACQUIRE` and `WaitLock(link_owner, csr[LINK_ACQ_TIMEOUT])` begins (R151). -/
def beginConverse (s : State) (p : Port) : State :=
  s.putPort ((p.enter .acquire).beginWait s.now s.csr.linkAcqTimeout)

/-- Step 1, Acquire (R151). -/
def converseAcquire (s : State) (p : Port) : Result :=
  onWait p s ((takeLink s).map fun s' => s'.putPort (p.enter .encode))
    (s.putPort (p.returning ⟨.linkBusy, []⟩))

/-- Step 2, Encode (R152, R153). -/
def converseEncode (call : Call) (s : State) (p : Port) : State :=
  if s.cfg.maxPayload < call.payload.length then s.putPort (p.exit .allocationFailure [])
  else
    { s with
      txbuf := writePrefix s.txbuf (frame s.cfg call.payload)
      txlen := (frame s.cfg call.payload).length }.putPort (p.enter .transmit)

/-- Step 3, Transmit, the hand-over: `tx_done <- 0` and `Send` in one step, then `WaitTxDone` begins (R154). -/
def converseSend (s : State) (p : Port) : State :=
  (sendFrame s).putPort (p.beginWait s.now s.csr.txDoneTimeout)

/-- What follows the transmit-complete event: TCNR leaves with `OK`, TC and TM start to receive (R150). -/
def afterTxDone (call : Call) (s : State) (p : Port) : State :=
  match call.kind with
  | .tcnr => s.putPort (p.exit .ok [])
  | .tc => s.putPort ({ p.enter .receive with k := 0 }.beginWait s.now s.csr.rxByteTimeout)
  | .tm => { s with rxcnt := 0 }.putPort ((p.enter .receive).beginWait s.now s.csr.rxByteTimeout)

/-- Step 3, Transmit, the wait (R154). -/
def converseTxDone (call : Call) (s : State) (p : Port) : Result :=
  onWait p s ((takeTxDone s).map fun s' => afterTxDone call s' p) (s.putPort (p.exit .transportTimeout []))

/-- The result of a whole acknowledgment (R155). -/
def ackResult (g : Params) (ack : List Byte) : Response :=
  if ackStatus ack = g.ackOk then ⟨.ok, ack⟩ else ⟨.deviceReportedError, ack⟩

/-- One acknowledgment byte has arrived: `ack[k] <- r` (R155). -/
def ackByte (b : Byte) (s : State) (p : Port) : State :=
  let ack := s.ack.set p.k b
  if p.k + 1 < tcAckLen then
    { s with ack := ack }.putPort ({ p with k := p.k + 1 }.beginWait s.now s.csr.rxByteTimeout)
  else
    let r := ackResult s.cfg ack
    { s with ack := ack }.putPort ({ p with k := p.k + 1 }.exit r.status r.data)

/-- Step 4, Receive, telecommand: one byte wait (R155). -/
def receiveAck (s : State) (p : Port) : Result :=
  onWait p s ((rxPop s).map fun r => ackByte r.1 r.2 p) (s.putPort (p.exit .transportTimeout []))

/-- `Finish(req)` on a reply of `n` bytes (R157). -/
def finishReply (g : Params) (req : Nat) (rxbuf : List Byte) (n : Nat) : Response :=
  if n < 2 + tmHdrLen + 2 then ⟨.malformedFrame, []⟩
  else
    match destuff g.esc (replyBody rxbuf n) with
    | none => ⟨.malformedFrame, []⟩
    | some payload => ⟨.ok, payload.take (min req payload.length)⟩

/-- One reply byte has arrived: store it, then the end test, then the capacity test (R156). -/
def replyByte (req : Nat) (b : Byte) (s : State) (p : Port) : State :=
  let rxbuf := s.rxbuf.set s.rxcnt b
  let n := s.rxcnt + 1
  let s' := { s with rxbuf := rxbuf, rxcnt := n }
  if endPair s.cfg rxbuf n then
    let r := finishReply s.cfg req rxbuf n
    s'.putPort (p.exit r.status r.data)
  else if n = s.cfg.rxbufCap then s'.putPort (p.exit .allocationFailure [])
  else s'.putPort (p.beginWait s.now s.csr.rxByteTimeout)

/-- Step 4, Receive, telemetry: one byte wait (R156). -/
def receiveReply (req : Nat) (s : State) (p : Port) : Result :=
  onWait p s ((rxPop s).map fun r => replyByte req r.1 r.2 p) (s.putPort (p.exit .transportTimeout []))

/-- Step 5, Release: `if not (hold and status = OK): link_owner <- none`, then `ph[c] <- RUN` (R150, R158). -/
def converseRelease (call : Call) (s : State) (p : Port) : State :=
  (if call.hold && p.ret.status == .ok then s else { s with linkOwner := none }).putPort (p.returning p.ret)

/-- The next step of a conversation the acting port is in; outside one there is none. -/
def converse (call : Call) (s : State) (p : Port) : Result :=
  match p.ph with
  | .acquire => converseAcquire s p
  | .encode => .next (converseEncode call s p)
  | .transmit => if p.waiting then converseTxDone call s p else .next (converseSend s p)
  | .receive =>
    match call.kind with
    | .tc => receiveAck s p
    | .tm => receiveReply call.req s p
    | .tcnr => .next s
  | .release => .next (converseRelease call s p)
  | .idle => .next s
  | .run => .next s
  | .done => .next s

end Sys2Proof.Machine
end

