-- ==== Sys2Proof/Machine/Download.lean ====
section
/-! DEFINITION. The File Download Engine: DL (42_download.md R200 to R224), one definition per step of the procedure of
R201. The meaning is one atomic step of the operation on the acting port. -/

namespace Sys2Proof.Machine

open Sys2Proof Sys2Proof.Config

/-- The conversation the engine is in, by `fde_state` (R204, R205, R206, 41_transport.md R167). -/
def dlCall (s : State) : Option Call :=
  match s.fdeState with
  | .blockRequested =>
    some ⟨.tc, encLoadBlock s.cfg s.dlType s.dlCounter s.dlOffset s.dlBlockLen.toNat, 0, false⟩
  | .blockReady => some ⟨.tm, [s.cfg.tlmIdBlockStatus], s.cfg.tmLenBlockStatus, false⟩
  | .burstInProgress => some ⟨.tc, encInitBurst s.cfg s.dlPdl.toNat, 0, s.cfg.burstHoldsLink⟩
  | .idle => none
  | .blockComplete => none

/-- `Abort(st, d)` is entered (R215). -/
def dlAbort (s : State) (p : Port) (st : Status) (data : List Byte) : State := s.putPort (p.aborting st data)

/-- `WaitLock(session_owner, csr[SESSION_ACQ_TIMEOUT])` begins (R202). -/
def dlStart (s : State) (p : Port) : State :=
  s.putPort ((p.runAt .session).beginWait s.now s.csr.sessionAcqTimeout)

/-- The wait for the session lock (R202). -/
def dlSession (s : State) (p : Port) : Result :=
  onWait p s ((takeSession s).map fun s' => s'.putPort (p.runAt .create)) (raiseError s p .sessionBusy)

/-- Session creation: the operands and the four parameters are latched, then the hole-map check (R203). -/
def dlCreate (type counter : Byte) (size : Word) (blen : Half) (s : State) (p : Port) : State :=
  let s' := { s with
    dlType := type
    dlCounter := counter
    dlSize := size
    dlOffset := 0
    dlBlockLen := blen
    dlPdl := s.csr.pktDataLen
    dlFill := s.csr.gapFillByte.setWidth 8
    dlRetry := s.csr.pktRetryBudget
    dlPolls := s.csr.pollBudget
    sessionLatched := true }
  if s.cfg.holeMapBits < ceilDiv blen.toNat s.csr.pktDataLen.toNat then
    raiseError { s' with sessionOwner := none } p .badDescriptor
  else s'.putPort (p.runAt .opening)

/-- `SinkOpen(type, counter)` (R203). -/
def dlOpen (type counter : Byte) (s : State) (p : Port) : State :=
  match sinkOpen ⟨type, counter⟩ s with
  | (true, s') => { s' with sinkOpen := true }.putPort (p.runAt .request)
  | (false, s') => raiseError { s' with sessionOwner := none } p .filesystemFailure

/-- `fde_state <- BlockRequested` and the "load file download block" conversation begins (R204). -/
def dlRequest (s : State) (p : Port) : State := beginConverse { s with fdeState := .blockRequested } p

/-- The head of the poll loop: the poll budget, then the "get block status" conversation begins (R205). -/
def dlPoll (s : State) (p : Port) : State :=
  if s.dlPolls = 0 then beginConverse s p
  else if s.polls = 0 then dlAbort s p .transportTimeout []
  else beginConverse { s with polls := s.polls - 1 } p

/-- `fde_state <- BurstInProgress` and the "initiate download burst" conversation begins (R206). -/
def dlBurst (s : State) (p : Port) : State := beginConverse { s with fdeState := .burstInProgress } p

/-- The load-block conversation has returned (R204, R205). -/
def dlRequested (s : State) (p : Port) : State :=
  if p.ret.status = .ok then
    { s with fdeState := .blockReady, polls := s.dlPolls.toNat }.putPort (p.runAt .poll)
  else dlAbort s p p.ret.status p.ret.data

/-- A status poll has returned (R205): its status, then its length, then the parameter error, then ready. -/
def dlPolled (s : State) (p : Port) : State :=
  if p.ret.status = .ok then
    if p.ret.data.length < s.cfg.tmLenBlockStatus then dlAbort s p .malformedFrame []
    else
      match decBlockStatus s.cfg p.ret.data with
      | (_, true) => dlAbort s p .deviceReportedError []
      | (true, false) => s.putPort (p.runAt .burst)
      | (false, false) => s.putPort (p.runAt .poll)
  else dlAbort s p p.ret.status []

/-- The initiate-burst conversation has returned: the receive loop is set up (R206, R207). -/
def dlBurstStarted (s : State) (p : Port) : State :=
  if p.ret.status = .ok then
    { s with
      npk := ceilDiv s.dlBlockLen.toNat s.dlPdl.toNat
      rem := s.dlBlockLen.toNat
      idx := 0
      indexSet := true }.putPort (p.runAt .loop)
  else dlAbort s p p.ret.status p.ret.data

/-- A conversation of the engine has returned. -/
def dlReturned (s : State) (p : Port) : Result :=
  match s.fdeState with
  | .blockRequested => .next (dlRequested s p)
  | .blockReady => .next (dlPolled s p)
  | .burstInProgress => .next (dlBurstStarted s p)
  | .idle => .next s
  | .blockComplete => .next s

/-- `while i < npk`: a packet read begins with `tries <- dl_retry + 1` (R207, R208), or the loop ends. -/
def dlLoop (s : State) (p : Port) : State :=
  if s.idx < s.npk then { s with tries := s.dlRetry.toNat + 1 }.putPort (p.runAt .attempt)
  else s.putPort (p.runAt .blockEnd)

/-- `while tries > 0`: an attempt begins at byte 0, or the packet read has failed (R208). -/
def dlAttempt (s : State) (p : Port) : State :=
  if 0 < s.tries then
    { s with tries := s.tries - 1 }.putPort
      ({ p.runAt .packet with k := 0 }.beginWait s.now s.csr.rxByteTimeout)
  else dlAbort s p .transportTimeout []

/-- One packet byte has arrived: `pktbuf[k] <- r` (R208). -/
def packetByte (b : Byte) (s : State) (p : Port) : State :=
  let s' := { s with pktbuf := s.pktbuf.set p.k b }
  if p.k + 1 = s.cfg.pktLen s.dlPdl.toNat then s'.putPort { p.runAt .check with k := p.k + 1 }
  else s'.putPort ({ p with k := p.k + 1 }.beginWait s.now s.csr.rxByteTimeout)

/-- The wait for one packet byte; its timeout ends the attempt (R208). -/
def dlPacket (s : State) (p : Port) : Result :=
  onWait p s ((rxPop s).map fun r => packetByte r.1 r.2 p) (s.putPort (p.runAt .attempt))

/-- The counter of a whole packet: below `i` the download aborts with `PROTOCOL_FAULT` and the run is marked faulty
(R211, 60_exceptions.md R279, 93_implementation_defined.md U7; log 11). -/
def dlCheck (s : State) (p : Port) : State :=
  let seq := packetCounter s.cfg s.pktbuf
  if seq < s.idx then dlAbort { s with seq := seq, protocolFaulted := true } p .protocolFault []
  else { s with seq := seq }.putPort (p.runAt .deliver)

/-- `k <- min(dl_pdl, rem)` (R209, R210). -/
def blockShare (s : State) : Nat := min s.dlPdl.toNat s.rem

/-- One turn of the gap loop for a missing index (R210), or, when `i` has reached the counter, the data of the packet
that arrived (R209). -/
def dlDeliver (s : State) (p : Port) : State :=
  let k := blockShare s
  if s.idx < s.seq then
    match sinkWriteSome (List.replicate k s.dlFill) s with
    | (true, s') => { s' with rem := s.rem - k, idx := s.idx + 1 }.putPort (p.runAt .deliver)
    | (false, s') => dlAbort s' p .filesystemFailure []
  else
    match sinkWriteSome (packetData s.pktbuf k) s with
    | (true, s') => { s' with rem := s.rem - k, idx := s.idx + 1 }.putPort (p.runAt .loop)
    | (false, s') => dlAbort s' p .filesystemFailure []

/-- The receive loop has ended: the link is freed if this port owns it (R217), then `BlockComplete` (R214). -/
def dlBlockEnd (s : State) (p : Port) : State :=
  let offset := s.dlOffset + s.dlBlockLen.toNat
  { freeLink s with fdeState := .blockComplete, dlOffset := offset }.putPort
    (p.runAt (if s.dlSize.toNat ≤ offset then .close else .request))

/-- The end of a download: `SinkClose`, `Idle`, the session lock freed, the response (R214). -/
def dlClose (s : State) (p : Port) : State :=
  match sinkClose s with
  | (true, s') => respond { s' with fdeState := .idle, sessionOwner := none } p .ok []
  | (false, s') => raiseError { s' with fdeState := .idle, sessionOwner := none } p .filesystemFailure

/-- `Abort` (R215): link freed if owned, sink closed if open (its answer ignored), `Idle`, session freed, response. -/
def dlAborted (s : State) (p : Port) : State :=
  let s1 := freeLink s
  let s2 := if s1.sinkOpen then (sinkClose s1).2 else s1
  respond { s2 with fdeState := .idle, sessionOwner := none } p p.ret.status p.ret.data

/-- The next step of a download outside a conversation. -/
def dlRun (type counter : Byte) (size : Word) (blen : Half) (s : State) (p : Port) : Result :=
  match p.pos with
  | .start =>
    if (Instr.dl type counter size blen).operandsLegal s.cfg then .next (dlStart s p)
    else .next (raiseError s p .badDescriptor)
  | .session => dlSession s p
  | .create => .next (dlCreate type counter size blen s p)
  | .opening => .next (dlOpen type counter s p)
  | .request => .next (dlRequest s p)
  | .poll => .next (dlPoll s p)
  | .burst => .next (dlBurst s p)
  | .ret => dlReturned s p
  | .loop => .next (dlLoop s p)
  | .attempt => .next (dlAttempt s p)
  | .packet => dlPacket s p
  | .check => .next (dlCheck s p)
  | .deliver => .next (dlDeliver s p)
  | .blockEnd => .next (dlBlockEnd s p)
  | .close => .next (dlClose s p)
  | .abort => .next (dlAborted s p)

/-- `DL` (R201). -/
def execDl (type counter : Byte) (size : Word) (blen : Half) (s : State) : Result :=
  s.withPort fun p =>
    match p.ph with
    | .run => dlRun type counter size blen s p
    | _ =>
      match dlCall s with
      | some call => converse call s p
      | none => .next s

end Sys2Proof.Machine
end

