-- ==== Sys2Proof/Machine/System.lean ====
section
/-! DEFINITION. The system operations CSRW and CSRR (43_system.md R250, R251). Both complete in one step. -/

namespace Sys2Proof.Machine

open Sys2Proof Sys2Proof.Config

/-- The body of a legal CSRW to register `r` (R250). -/
def csrwBody (r : Csr) (v : Word) (s : State) (p : Port) : State :=
  if r = .status then respond (clearOverflow s v) p .ok []
  else if s.linkOwner ≠ none then raiseError s p .linkBusy
  else if s.sessionOwner ≠ none then raiseError s p .sessionBusy
  else respond { s with csr := csrWrite s.csr r v } p .ok []

/-- `CSRW` (R250); the decode errors of R114 (6) first. -/
def execCsrw (index : Byte) (v : Word) (s : State) : Result :=
  oneStep s fun p =>
    match Csr.ofIndex index with
    | none => raiseError s p .badDescriptor
    | some r => if r.writeLegal s.cfg v then csrwBody r v s p else raiseError s p .badDescriptor

/-- `CSRR` (R251); the decode error of R114 (6) first. No register changes; a view of a register nothing has written
since reset shows a draw (10_state.md R55). -/
def execCsrr (index : Byte) (s : State) : Result :=
  oneStep s fun p =>
    match Csr.ofIndex index with
    | none => raiseError s p .badDescriptor
    | some r => respond (drawView s r) p .ok (wordBytes (csrRead s r))

end Sys2Proof.Machine
end

