-- ==== Sys2Proof/Machine/Transport.lean ====
section
/-! DEFINITION. The host operations of the Command/Telemetry Transport: TC, TCNR, TM (41_transport.md R160 to R162). Each
meaning is one atomic step of the operation on the acting port. -/

namespace Sys2Proof.Machine

open Sys2Proof Sys2Proof.Config

/-- The data an operation responds with when its conversation has returned `r`: the conversation's data (R160, R162);
TCNR's is empty (R161). -/
def responseData (kind : Kind) (r : Response) : List Byte :=
  match kind with
  | .tc => r.data
  | .tcnr => []
  | .tm => r.data

/-- An operation that is one conversation: legal operands, `Converse`, then `respond` (R160 to R162). -/
def converseOperation (i : Instr) (call : Call) (s : State) : Result :=
  s.withPort fun p =>
    match p.ph with
    | .run =>
      match p.pos with
      | .start =>
        if i.operandsLegal s.cfg then .next (beginConverse s p) else .next (raiseError s p .badDescriptor)
      | .ret => .next (respond s p p.ret.status (responseData call.kind p.ret))
      | _ => .next s
    | _ => converse call s p

/-- The conversation of `TC` (R160). -/
def tcCall (p : List Byte) : Call := ⟨.tc, p, 0, false⟩

/-- The conversation of `TCNR` (R161). -/
def tcnrCall (p : List Byte) : Call := ⟨.tcnr, p, 0, false⟩

/-- The conversation of `TM` (R162). -/
def tmCall (tlmId : Byte) (req : Half) : Call := ⟨.tm, [tlmId], req.toNat, false⟩

/-- `TC` (R160). -/
def execTc (p : List Byte) (s : State) : Result := converseOperation (.tc p) (tcCall p) s

/-- `TCNR` (R161). -/
def execTcnr (p : List Byte) (s : State) : Result := converseOperation (.tcnr p) (tcnrCall p) s

/-- `TM` (R162). -/
def execTm (tlmId : Byte) (req : Half) (s : State) : Result := converseOperation (.tm tlmId req) (tmCall tlmId req) s

end Sys2Proof.Machine
end

