-- ==== Sys2Proof/Machine/Dispatch.lean ====
section
/-! DEFINITION. The meaning of each host operation: one arm per row of spec/opcode_table.json, each one direct call. -/

namespace Sys2Proof.Machine

open Sys2Proof

-- one atomic step of the operation on port `actor` (log 4)
def exec (i : Instr) (s : State) : Host.Outcome State Fault Refusal :=
  match i with
  | .stuff p => Sys2Proof.Machine.execStuff p s
  | .destuff q => Sys2Proof.Machine.execDestuff q s
  | .tc p => Sys2Proof.Machine.execTc p s
  | .tcnr p => Sys2Proof.Machine.execTcnr p s
  | .tm tlmId req => Sys2Proof.Machine.execTm tlmId req s
  | .dl type counter size blen => Sys2Proof.Machine.execDl type counter size blen s
  | .csrw index v => Sys2Proof.Machine.execCsrw index v s
  | .csrr index => Sys2Proof.Machine.execCsrr index s

end Sys2Proof.Machine
end

