-- ==== Sys2Proof/Machine/Agents.lean ====
section
/-! DEFINITION. The agents (00_scope.md R13): what one move of each does, how a port fetches and runs its operation, and the
placing of an operation word where the next step fetches it. -/

namespace Sys2Proof.Machine

open Sys2Proof Sys2Proof.Config

/-- The operation of a port: its latched descriptor, decoded (30_encoding.md R103, 20_memory.md R70). -/
def fetch (s : State) (p : Port) : Except DecodeError Instr := decode s.cfg.descCap p.descLen p.desc

/-- One step of host port `c`: nothing on an `IDLE` or `DONE` port ("the port does nothing until the next issue",
60_exceptions.md R287; log 5); else the next step of its operation; an undecodable descriptor is answered at the first
step (30_encoding.md R114). -/
def runPort (c : Nat) (s : State) : Result :=
  match s.ports[c]? with
  | none => .fault .noSuchPort
  | some p =>
    if p.ph = .idle ∨ p.ph = .done then .next s
    else
      match fetch s p with
      | .ok i => exec i { s with actor := c }
      | .error e =>
        if p.ph = .run ∧ p.pos = .start then .next (raiseError { s with actor := c } p e.status) else .next s

/-- One atomic step of one agent. -/
def perform (m : Move) (s : State) : Result :=
  match m with
  | .issue c d => issue c d s
  | .collect c => collect c s
  | .port c => runPort c s
  | .rx b => .next (rxPush b s)
  | .tx => .next (txEvent s)
  | .tick => .next (tick s)
  | .sink ok => .next (sinkSettle ok s)
  | .reset => .next (resetBlock s)

/-- The next move and the state without it: the head of `schedule`, else a free value (log 3). -/
def nextMove (s : State) : Move × State :=
  match s.schedule with
  | m :: rest => (m, { s with schedule := rest })
  | [] => (envMove s.draws, { s with draws := s.draws + 1 })

/-- `step` under a legal configuration; an illegal one is refused (00_scope.md R8, U15; log 2). -/
def stepMachine (s : State) : Result :=
  if s.cfg.legal then perform (nextMove s).1 (nextMove s).2 else .refused .illegalConfiguration

/-- Descriptor `d` latched on port 0, which is scheduled next: the state after the host's issue step (log 17). -/
def loadDescriptor (d : List Byte) (s : State) : State :=
  match s.ports with
  | [] => s
  | p :: rest =>
    { s with
      ports := { p.runAt .start with desc := d.take s.cfg.descCap, descLen := d.length } :: rest
      schedule := .port 0 :: s.schedule }

/-- `perform` for each move of a list, stopping at the first fault or refusal. -/
def performAll : List Move → State → Result
  | [], s => .next s
  | m :: ms, s =>
    match perform m s with
    | .next s' => performAll ms s'
    | .fault r => .fault r
    | .refused r => .refused r

end Sys2Proof.Machine
end

