-- ==== Sys2Proof/Machine/Step.lean ====
section
/-! DEFINITION. One step of the machine: the next move of `schedule` (or of the free environment), performed. -/

namespace Sys2Proof.Machine

open Sys2Proof

/-- One step: one atomic step of one agent (00_scope.md R13). -/
def step (s : State) : Host.Outcome State Fault Refusal := stepMachine s

/-- `s` with the operation whose first `nbits` bits are `w` issued on port 0 and that port scheduled next (log 17). -/
def State.withFetchWord (s : State) (nbits w : Nat) : State := loadDescriptor (tableDescriptor nbits w) s

end Sys2Proof.Machine
end

