-- ==== Sys2Proof/Machine/Scenario.lean ====
section
/-! DEFINITION. The line syntax of 30_encoding.md R116 and R117 as data: what each line of a scenario does (moves of the
host and of the environment) and what it asserts. The textual spelling itself is notation (92_eei_decisions.md D37). -/

namespace Sys2Proof.Machine

open Sys2Proof Sys2Proof.Config

/-- One line of a scenario (R116, R117). -/
inductive Line where
  /-- a host line `<operation> pC, …` -/
  | host (c : Nat) (i : Instr)
  /-- `TMSTATUS pC` -/
  | tmStatus (c : Nat)
  /-- `CLROVF pC` -/
  | clrOvf (c : Nat)
  /-- `COLLECT pC -> STATUS, [data]` -/
  | collect (c : Nat) (st : Status) (data : List Byte)
  /-- `RX [bytes]` -/
  | rx (bs : List Byte)
  /-- `TXDONE` -/
  | txDone
  /-- `TICK k` -/
  | tick (k : Nat)
  /-- `SINK ok` / `SINK fail` -/
  | sink (ok : Bool)
  /-- `WIRE [bytes]` -/
  | wire (bs : List Byte)
deriving DecidableEq, Repr

/-- The moves a line stands for. -/
def Line.moves (g : Params) : Line → List Move
  | .host c i => [.issue c (encode i)]
  | .tmStatus c => [.issue c (encode (pseudoTmStatus g))]
  | .clrOvf c => [.issue c (encode pseudoClrOvf)]
  | .collect c _ _ => [.collect c]
  | .rx bs => bs.map .rx
  | .txDone => [.tx]
  | .tick k => List.replicate k .tick
  | .sink ok => [.sink ok]
  | .wire _ => []

/-- What a line asserts of the state before it, `unread` being the number of entries of `wire_out` already read. -/
def Line.holds (unread : Nat) (s : State) : Line → Bool
  | .collect c st data => (s.ports[c]?.map fun p => p.ph == .done && p.rsp == ⟨st, data⟩) == some true
  | .wire bs => s.wireOut[unread]? == some bs
  | _ => true

end Sys2Proof.Machine
end

