-- ==== Sys2Proof/WellFormed.lean ====
section
/-! DEFINITION. Which operations a configuration can be given: the descriptor exists and fits the latch, and its operand
values are legal (30_encoding.md R104 to R111, R114). -/

namespace Sys2Proof

open Config

/-- The number of payload bytes of a format V operation; 0 for the others. -/
def Instr.payloadLength : Instr → Nat
  | .stuff p => p.length
  | .destuff q => q.length
  | .tc p => p.length
  | .tcnr p => p.length
  | _ => 0

/-- The operation has a descriptor: the payload length fits the 16 bit field `n` (R104, R118). -/
def Instr.encodable (i : Instr) : Bool := decide (i.payloadLength < 65536)

/-- The descriptor fits the descriptor latch (R114 (1)). -/
def Instr.fits (g : Params) (i : Instr) : Bool := decide ((encode i).length ≤ g.descCap)

/-- An operation whose descriptor decode accepts and R114 finds legal. -/
def Instr.wellFormed (g : Params) (i : Instr) : Bool := i.encodable && i.fits g && i.operandsLegal g

end Sys2Proof
end

