-- ==== Sys2Proof/Safety.lean ====
section
/-! DEFINITION. What counts as a safe run, in the terms the claims use: the ended, quiescent and clean states of
70_reset_and_hazards.md R329, the invariants every step keeps, and runs of one operation's own steps. -/

namespace Sys2Proof.Machine

open Sys2Proof Sys2Proof.Config

/-! ## The acting port -/

/-- `p` is the acting port and runs outside a conversation, at position `pos`. -/
def State.actsAt (s : State) (p : Port) (pos : RunPos) : Prop := s.ports[s.actor]? = some p ∧ p.ph = .run ∧ p.pos = pos

/-- `p` is the acting port and is in phase `ph`. -/
def State.actsIn (s : State) (p : Port) (ph : Phase) : Prop := s.ports[s.actor]? = some p ∧ p.ph = ph

/-- The bound of the wait port `p` is in has passed: `now − t0 ≥ T` (00_scope.md R11). -/
def State.boundPassed (s : State) (p : Port) : Prop := p.bound ≤ s.now - p.t0

/-- The machine's next move, the free choice of an agent included (00_scope.md R13; log 3). -/
def State.move (s : State) : Move := (nextMove s).1

/-! ## The list of 30_encoding.md R114, as it stands there -/

/-- The answer to an illegal descriptor, tested in the order (1) to (6); `none` for a legal one. -/
def descriptorAnswer (g : Params) (d : List Byte) : Option Status :=
  let op := d.getD 0 0
  let index := d.getD 1 0
  let v := le32 d 2
  if 4 + 2 * g.maxPayload < d.length then some .allocationFailure
  else if op ∉ [0x01, 0x02, 0x10, 0x11, 0x12, 0x20, 0x30, 0x31] then some .badDescriptor
  else if op ∈ [0x01, 0x02, 0x10, 0x11] ∧ (d.length < 3 ∨ d.length ≠ 3 + le16 d 1) then some .badDescriptor
  else if op = 0x12 ∧ d.length ≠ 4 then some .badDescriptor
  else if op = 0x20 ∧ d.length ≠ 9 then some .badDescriptor
  else if op = 0x30 ∧ d.length ≠ 6 then some .badDescriptor
  else if op = 0x31 ∧ d.length ≠ 2 then some .badDescriptor
  else if op ∈ [0x10, 0x11] ∧ le16 d 1 = 0 then some .badDescriptor
  else if op = 0x20 ∧ (le32 d 3 = 0 ∨ le16 d 7 = 0) then some .badDescriptor
  else if op ∈ [0x30, 0x31] ∧
      index ∉ [0x00, 0x01, 0x02, 0x03, 0x04, 0x05, 0x06, 0x07, 0x10, 0x11, 0x12, 0x13, 0x14, 0x15] then
    some .badDescriptor
  else if op = 0x30 ∧ index ∈ [0x11, 0x12, 0x13, 0x14, 0x15] then some .badDescriptor
  else if op = 0x30 ∧ index = 0x04 ∧ 65535 < v then some .badDescriptor
  else if op = 0x30 ∧ index = 0x05 ∧ (v < 1 ∨ g.maxPktData < v) then some .badDescriptor
  else if op = 0x30 ∧ index = 0x07 ∧ 255 < v then some .badDescriptor
  else none

/-! ## A block's content by its packets (42_download.md R210, R213) -/

/-- What the receive loop appends for a run of packets from index `i` with `rem` bytes left to write: the fill for every
missing index, then the packet's own data, each cut to the bytes left. -/
def blockBytes (g : Params) (pdl : Nat) (fill : Byte) : (i rem : Nat) → List (List Byte) → List Byte
  | _, _, [] => []
  | i, rem, d :: ds =>
    let seq := packetCounter g d
    let gap := min rem ((seq - i) * pdl)
    let own := min (rem - gap) pdl
    List.replicate gap fill ++ packetData d own ++ blockBytes g pdl fill (seq + 1) (rem - gap - own) ds

/-- The receive loop of a block of `npk` packets reads exactly the packets `ds` from index `i` on: whole packets of
`PKT_LEN` bytes, every counter at or above the index expected, and the loop ends after the last one (R207 to R212). -/
def burstRun (g : Params) (pdl npk : Nat) : (i : Nat) → List (List Byte) → Prop
  | i, [] => npk ≤ i
  | i, d :: ds =>
    i < npk ∧ d.length = g.pktLen pdl ∧ i ≤ packetCounter g d ∧ burstRun g pdl npk (packetCounter g d + 1) ds

/-! ## End of a run (R329) -/

/-- "a run has ended when every port is `IDLE`". -/
def State.ended (s : State) : Prop := ∀ p ∈ s.ports, p.ph = .idle

/-- The block is quiescent (R329). -/
def State.quiescent (s : State) : Prop :=
  s.ended ∧ s.linkOwner = none ∧ s.sessionOwner = none ∧ s.fdeState = .idle ∧ s.sinkOpen = false

/-- The block is clean (R329). -/
def State.clean (s : State) : Prop := s.quiescent ∧ s.rxq = [] ∧ s.txDone = false ∧ s.rxOverflow = false

/-! ## The control registers hold legal values (10_state.md R37; 92_eei_decisions.md D9) -/

/-- Every configuration register holds a value that R37 calls legal. -/
def State.csrLegal (s : State) : Prop :=
  s.csr.pktRetryBudget.toNat < 65536 ∧
  (1 ≤ s.csr.pktDataLen.toNat ∧ s.csr.pktDataLen.toNat ≤ s.cfg.maxPktData) ∧
  s.csr.gapFillByte.toNat < 256

/-! ## Decode comes first (30_encoding.md R114) -/

/-- An operation that has gone beyond its first step has legal operands: an illegal descriptor ends at decode. -/
def State.decodedInv (s : State) : Prop :=
  ∀ (c : Nat) (p : Port) (i : Instr), s.ports[c]? = some p → fetch s p = .ok i → p.ph ≠ .idle → p.ph ≠ .done →
    ¬(p.ph = .run ∧ p.pos = .start) → i.operandsLegal s.cfg = true

/-! ## The locks (10_state.md R24, R30; 20_memory.md R71, R72) -/

/-- The phases in which a port owns the link: from the event step of Acquire to Release (41_transport.md R151, R158). -/
def Phase.ownsLink : Phase → Bool
  | .encode => true
  | .transmit => true
  | .receive => true
  | .release => true
  | .idle => false
  | .acquire => false
  | .run => false
  | .done => false

/-- The positions from the return of the initiate-burst conversation to the end of the receive loop or the abort, where
the download keeps the link when `BURST_HOLDS_LINK` is true (42_download.md R217). -/
def RunPos.inBurst : RunPos → Bool
  | .ret => true
  | .loop => true
  | .attempt => true
  | .packet => true
  | .check => true
  | .deliver => true
  | .blockEnd => true
  | .abort => true
  | _ => false

/-- The port is running a DL operation that has taken the session lock and has not given it back (R201, R216). -/
def inSession (s : State) (p : Port) : Bool :=
  (match fetch s p with
   | .ok (.dl _ _ _ _) => true
   | _ => false) &&
  (match p.ph with
   | .idle => false
   | .done => false
   | .run => p.pos != .start && p.pos != .session
   | _ => true)

/-- A port in a link-owning phase owns the link; the owner of the link is in such a phase, or is a download in its
burst. -/
def State.linkInv (s : State) : Prop :=
  (∀ (c : Nat) (p : Port), s.ports[c]? = some p → p.ph.ownsLink = true → s.linkOwner = some c) ∧
  (∀ c : Nat, s.linkOwner = some c → ∃ p : Port, s.ports[c]? = some p ∧
    (p.ph.ownsLink = true ∨
      (p.ph = .run ∧ p.pos.inBurst = true ∧ s.fdeState = .burstInProgress ∧ s.sessionOwner = some c)))

/-- The owner of the session is exactly the port running a DL past its session wait; without an owner the engine is
`Idle` with no open sink, and so it is until the owner has opened one. -/
def State.sessionInv (s : State) : Prop :=
  (∀ (c : Nat) (p : Port), s.ports[c]? = some p → (inSession s p = true ↔ s.sessionOwner = some c)) ∧
  (∀ c : Nat, s.sessionOwner = some c → c < s.ports.length) ∧
  (s.sessionOwner = none → s.fdeState = .idle ∧ s.sinkOpen = false) ∧
  (∀ (c : Nat) (p : Port), s.ports[c]? = some p → s.sessionOwner = some c → p.ph = .run →
    (p.pos = .create ∨ p.pos = .opening) → s.fdeState = .idle ∧ s.sinkOpen = false)

/-- Both locks are owned exactly as R24, R30, R71 and R72 say. -/
def State.lockInv (s : State) : Prop := s.linkInv ∧ s.sessionInv

/-! ## The download's registers (10_state.md R32, R33; 42_download.md R204, R207 to R214) -/

/-- What holds of the port that owns the session. Past `create` the latched parameters are legal ones; until the last
block is complete the offset is below the size (R204, R214). -/
def State.sessionRegs (s : State) (p : Port) : Prop :=
  ¬(p.ph = .run ∧ p.pos = .create) →
    (1 ≤ s.dlPdl.toNat ∧ s.dlPdl.toNat ≤ s.cfg.maxPktData) ∧ 1 ≤ s.dlBlockLen.toNat ∧
    (¬(p.ph = .run ∧ p.pos = .close) → s.dlOffset < s.dlSize.toNat)

/-- The receive loop (R207 to R213): what is left of the block is its length less the share of every index already
visited; when the loop has ended nothing is left; the loop delivers at or below the counter it read; a packet byte goes
inside the packet. -/
def State.blockRegs (s : State) (p : Port) : Prop :=
  ((p.pos = .loop ∨ p.pos = .attempt ∨ p.pos = .packet ∨ p.pos = .check ∨ p.pos = .deliver) →
    s.npk = ceilDiv s.dlBlockLen.toNat s.dlPdl.toNat ∧
    s.rem + min (s.idx * s.dlPdl.toNat) s.dlBlockLen.toNat = s.dlBlockLen.toNat) ∧
  (p.pos = .blockEnd → s.rem = 0) ∧
  (p.pos = .deliver → s.idx ≤ s.seq) ∧
  (p.pos = .packet → p.k < s.cfg.pktLen s.dlPdl.toNat)

/-- The download registers of the port that owns the session are as its position says. -/
def State.budgetInv (s : State) : Prop :=
  ∀ (c : Nat) (p : Port), s.ports[c]? = some p → s.sessionOwner = some c →
    s.sessionRegs p ∧ (p.ph = .run → s.blockRegs p)

/-- The widths the spec gives the download's unbounded registers (10_state.md R32, R33). -/
def State.widthInv (s : State) : Prop :=
  s.npk ≤ 65535 ∧ s.idx ≤ 65536 ∧ s.rem ≤ 65535 ∧ s.seq ≤ 65535 ∧ s.tries ≤ 65536 ∧ s.dlRetry.toNat ≤ 65535 ∧
  s.dlOffset < 8589934592

/-! ## The staging cursors (41_transport.md R155, R156) -/

/-- The conversation operation `i` is in while its port is in a conversation phase. -/
def callOf (s : State) : Instr → Option Call
  | .tc p => some (tcCall p)
  | .tcnr p => some (tcnrCall p)
  | .tm tlmId req => some (tmCall tlmId req)
  | .dl _ _ _ _ => dlCall s
  | .stuff _ => none
  | .destuff _ => none
  | .csrw _ _ => none
  | .csrr _ => none

/-- A receiving port stores its next byte inside the buffer: `rxbuf` for a telemetry reply, `ack` for an acknowledgment. -/
def State.cursorInv (s : State) : Prop :=
  s.rxcnt ≤ s.cfg.rxbufCap ∧
  ∀ (c : Nat) (p : Port) (i : Instr) (call : Call), s.ports[c]? = some p → p.ph = .receive → fetch s p = .ok i →
    callOf s i = some call →
    (call.kind = .tm → s.rxcnt < s.cfg.rxbufCap) ∧ (call.kind = .tc → p.k < tcAckLen)

/-- The invariants of a run taken together. -/
def State.runInv (s : State) : Prop :=
  s.csrLegal ∧ s.decodedInv ∧ s.lockInv ∧ s.budgetInv ∧ s.widthInv ∧ s.cursorInv

/-! ## Runs of one operation -/

/-- `n` atomic steps of operation `i` on the acting port, stopping at the first fault or refusal. -/
def execTimes : Nat → Instr → State → Result
  | 0, _, s => .next s
  | n + 1, i, s =>
    match exec i s with
    | .next s' => execTimes n i s'
    | .fault r => .fault r
    | .refused r => .refused r

end Sys2Proof.Machine
end

