-- ==== Sys2Proof/Certificates/Slice0/Obligations.lean ====
section
/-! DEFINITION. The statements for the provers, file by file of the spec. `performAll` runs a list of moves of the agents,
`execTimes` a number of steps of one operation; a statement whose conclusion is an equation of states is the frame as well:
what the equation does not name is unchanged. -/

open Sys2Proof Sys2Proof.Config Sys2Proof.Machine

/-! ## 40_frame_codec.md: the codec and its two operations -/

/-- R131, the stuffing length law. -/
def Obligations.StuffedLengthIsInputPlusMarkers : Prop :=
  ∀ (esc : Byte) (p : List Byte),
    (stuff esc p).length = p.length + p.count esc ∧ p.length ≤ (stuff esc p).length ∧
      (stuff esc p).length ≤ 2 * p.length

/-- R136: destuffing a stuffed payload gives the payload back, consecutive markers or not. -/
def Obligations.DestuffInvertsStuff : Prop :=
  ∀ (esc : Byte) (p : List Byte), destuff esc (stuff esc p) = some p

/-- R137: data without a marker is unchanged by both functions. -/
def Obligations.CleanDataIsUnchanged : Prop :=
  ∀ (esc : Byte) (p : List Byte), esc ∉ p → stuff esc p = p ∧ destuff esc p = some p

/-- R133, R134: destuffing fails exactly when the scan stands on a marker that is the last byte; the byte after any other
marker is skipped whatever it is. -/
def Obligations.DestuffFailsOnlyOnALastMarker : Prop :=
  ∀ (esc : Byte) (q : List Byte),
    (destuff esc q = none ↔ ∃ pre out : List Byte, q = pre ++ [esc] ∧ destuff esc pre = some out) ∧
    (∀ x : Byte, destuff esc (esc :: x :: q) = (destuff esc q).map (fun r => esc :: r))

/-- R138: STUFF answers in one step, the stuffed sequence or ALLOCATION_FAILURE, and changes nothing but its port. -/
def Obligations.StuffAnswersInOneStep : Prop :=
  ∀ (s : State) (p : Port) (payload : List Byte), s.actsAt p .start →
    (payload.length ≤ s.cfg.maxPayload →
      exec (.stuff payload) s = .next (s.putPort (p.finish .ok (stuff s.cfg.esc payload)))) ∧
    (s.cfg.maxPayload < payload.length →
      exec (.stuff payload) s = .next (s.putPort (p.finish .allocationFailure [])))

/-- R139: DESTUFF answers in one step: ALLOCATION_FAILURE, MALFORMED_FRAME or the payload. -/
def Obligations.DestuffAnswersInOneStep : Prop :=
  ∀ (s : State) (p : Port) (q : List Byte), s.actsAt p .start →
    (2 * s.cfg.maxPayload < q.length →
      exec (.destuff q) s = .next (s.putPort (p.finish .allocationFailure []))) ∧
    (q.length ≤ 2 * s.cfg.maxPayload → destuff s.cfg.esc q = none →
      exec (.destuff q) s = .next (s.putPort (p.finish .malformedFrame []))) ∧
    (∀ payload : List Byte, q.length ≤ 2 * s.cfg.maxPayload → destuff s.cfg.esc q = some payload →
      exec (.destuff q) s = .next (s.putPort (p.finish .ok payload)))

/-! ## 30_encoding.md: descriptors -/

/-- R104 to R111: decoding the descriptor of an operation gives the operation back, for every operand the encoding
admits. -/
def Obligations.DecodeOfEncode : Prop :=
  ∀ (g : Params) (i : Instr), i.encodable = true → i.fits g = true →
    decode g.descCap (encode i).length (encode i) = .ok i

/-- R103, R114 (1) to (3), R115: a descriptor that decodes is exactly the encoding of its operation, so each descriptor
has one meaning. -/
def Obligations.EncodeOfDecode : Prop :=
  ∀ (g : Params) (d : List Byte) (i : Instr), decode g.descCap d.length d = .ok i →
    encode i = d ∧ i.encodable = true ∧ i.fits g = true

/-- The descriptors written out in the examples of R138, R139, R160, R161, R162, R201, R250 and R251 decode to the
operations they stand for; the ten status codes of R113. -/
def Obligations.SpecDescriptorsDecodeAndStatusesHaveTheirCodes : Prop :=
  decode 516 6 [0x01, 0x03, 0x00, 0x01, 0x1F, 0x02] = .ok (.stuff [0x01, 0x1F, 0x02]) ∧
  decode 516 7 [0x02, 0x04, 0x00, 0x41, 0x1F, 0x1F, 0x42] = .ok (.destuff [0x41, 0x1F, 0x1F, 0x42]) ∧
  decode 516 6 [0x10, 0x03, 0x00, 0x0A, 0x01, 0x1F] = .ok (.tc [0x0A, 0x01, 0x1F]) ∧
  decode 516 4 [0x11, 0x01, 0x00, 0x01] = .ok (.tcnr [0x01]) ∧
  decode 516 4 [0x12, 0x92, 0x03, 0x00] = .ok (.tm 0x92 3) ∧
  decode 516 9 [0x20, 0x02, 0x07, 0x28, 0x00, 0x00, 0x00, 0x28, 0x00] = .ok (.dl 2 7 40 40) ∧
  decode 516 6 [0x30, 0x00, 0x64, 0x00, 0x00, 0x00] = .ok (.csrw 0x00 100) ∧
  decode 516 2 [0x31, 0x05] = .ok (.csrr 0x05) ∧
  Status.ok.code = 0x00 ∧ Status.linkBusy.code = 0x01 ∧ Status.transportTimeout.code = 0x02 ∧
  Status.malformedFrame.code = 0x03 ∧ Status.allocationFailure.code = 0x04 ∧
  Status.deviceReportedError.code = 0x05 ∧ Status.filesystemFailure.code = 0x06 ∧ Status.sessionBusy.code = 0x07 ∧
  Status.badDescriptor.code = 0x08 ∧ Status.protocolFault.code = 0x09

/-- R114: an illegal descriptor issued on an idle port is answered by the port's first step, with the status of the first
case that applies, empty data, and no other effect. That the latch keeps the first DESC_CAP bytes of a descriptor that is
too long, with the length presented beside them, is the model's choice of log 12; that the answer comes at the port's
first step is its reading of log 13. -/
def Obligations.IllegalDescriptorIsAnsweredAtDecode : Prop :=
  ∀ (s : State) (c : Nat) (p : Port) (d : List Byte) (st : Status), s.ports[c]? = some p → p.ph = .idle →
    descriptorAnswer s.cfg d = some st →
    performAll [.issue c d, .port c] s = .next { s with
      actor := c
      ports := s.ports.set c { p with
        desc := d.take s.cfg.descCap
        descLen := d.length
        rsp := ⟨st, []⟩
        ph := .done
        pos := .start
        waiting := false } }

/-- R114: the descriptors that no case of the list answers are exactly those that decode to an operation with legal
operands. -/
def Obligations.LegalDescriptorsAreTheWellFormedOnes : Prop :=
  ∀ (g : Params) (d : List Byte),
    (descriptorAnswer g d = none ↔ ∃ i : Instr, encode i = d ∧ i.wellFormed g = true)

/-! ## 43_system.md and 10_state.md R37 to R51: control registers -/

/-- R250: a legal CSRW. STATUS clears the overflow flag by bit 3 at any time; a configuration register is refused while a
lock is owned and written otherwise. -/
def Obligations.CsrwWritesTheRegister : Prop :=
  ∀ (s : State) (p : Port) (index : Byte) (r : Csr) (v : Word), s.actsAt p .start →
    Csr.ofIndex index = some r → r.writeLegal s.cfg v = true →
    (r = .status → exec (.csrw index v) s =
      .next ({ s with rxOverflow := if v.getLsbD 3 then false else s.rxOverflow }.putPort (p.finish .ok []))) ∧
    (r ≠ .status → s.linkOwner ≠ none → exec (.csrw index v) s = .next (s.putPort (p.finish .linkBusy []))) ∧
    (r ≠ .status → s.linkOwner = none → s.sessionOwner ≠ none →
      exec (.csrw index v) s = .next (s.putPort (p.finish .sessionBusy []))) ∧
    (r ≠ .status → s.linkOwner = none → s.sessionOwner = none →
      exec (.csrw index v) s = .next ({ s with csr := csrWrite s.csr r v }.putPort (p.finish .ok [])))

/-- R37, R42, R43, R45 to R51, R114 (6): a CSRW is refused with BAD_DESCRIPTOR, nothing else changed, exactly for a
reserved index, a read-only register or an illegal value. -/
def Obligations.CsrwRefusesIllegalWrites : Prop :=
  ∀ (s : State) (p : Port) (index : Byte) (v : Word), s.actsAt p .start →
    let illegal : Prop :=
      index ∉ [0x00, 0x01, 0x02, 0x03, 0x04, 0x05, 0x06, 0x07, 0x10] ∨
      (index = 0x04 ∧ 65535 < v.toNat) ∨ (index = 0x05 ∧ (v.toNat < 1 ∨ s.cfg.maxPktData < v.toNat)) ∨
      (index = 0x07 ∧ 255 < v.toNat)
    (illegal → exec (.csrw index v) s = .next (s.putPort (p.finish .badDescriptor []))) ∧
    (¬illegal → ∃ (t : State) (st : Status), exec (.csrw index v) s = .next t ∧
      t.ports[s.actor]? = some (p.finish st []) ∧ st ≠ .badDescriptor)

/-- R37, R46 to R51, R55, R251: a CSRR of each implemented index answers the register of that index, four bytes, least
significant first, at any time; a view of a register that no download has written since reset answers a draw within the
view's bits, the model's choice of log 7; RX_LEVEL for a count that does not fit 32 bits answers a free value, the model's
choice of log 27; a reserved index is answered BAD_DESCRIPTOR; no register of the block changes. -/
def Obligations.CsrrReadsTheRegisterOfItsIndex : Prop :=
  ∀ (s : State) (p : Port) (index : Byte), s.actsAt p .start →
    let map : List (Byte × Word) :=
      [(0x00, s.csr.rxByteTimeout), (0x01, s.csr.txDoneTimeout), (0x02, s.csr.linkAcqTimeout),
       (0x03, s.csr.sessionAcqTimeout), (0x04, s.csr.pktRetryBudget), (0x05, s.csr.pktDataLen),
       (0x06, s.csr.pollBudget), (0x07, s.csr.gapFillByte), (0x10, statusWord s),
       (0x11, BitVec.ofNat 32 s.rxq.length), (0x12, BitVec.ofNat 32 s.dlOffset), (0x13, s.dlSize),
       (0x14, BitVec.ofNat 32 s.dlBlockLen.toNat), (0x15, BitVec.ofNat 32 (s.idx % 131072))]
    let bytes (v : Word) : List Byte :=
      [v.extractLsb' 0 8, v.extractLsb' 8 8, v.extractLsb' 16 8, v.extractLsb' 24 8]
    let unwritten : Prop :=
      (index ∈ [0x12, 0x13, 0x14] ∧ s.sessionLatched = false) ∨ (index = 0x15 ∧ s.indexSet = false)
    (∀ v : Word, (index, v) ∈ map → ¬unwritten → (index = 0x11 → s.rxq.length < 4294967296) →
      exec (.csrr index) s = .next (s.putPort (p.finish .ok (bytes v)))) ∧
    (unwritten → ∃ v : Word, (index = 0x14 → v.toNat < 65536) ∧ (index = 0x15 → v.toNat < 131072) ∧
      exec (.csrr index) s = .next ({ s with draws := s.draws + 1 }.putPort (p.finish .ok (bytes v)))) ∧
    (index = 0x11 → 4294967296 ≤ s.rxq.length → ∃ v : Word,
      exec (.csrr index) s = .next (s.putPort (p.finish .ok (bytes v)))) ∧
    (index ∉ map.map (fun e => e.1) → exec (.csrr index) s = .next (s.putPort (p.finish .badDescriptor [])))

/-- R46, R31: what each bit of STATUS reads as, the five codes of `fde_state` written out. -/
def Obligations.StatusWordShowsTheFlags : Prop :=
  ∀ s : State,
    (statusWord s).getLsbD 0 = s.linkOwner.isSome ∧
    (statusWord s).getLsbD 1 = s.sessionOwner.isSome ∧
    (statusWord s).getLsbD 2 = s.txDone ∧
    (statusWord s).getLsbD 3 = s.rxOverflow ∧
    ((statusWord s).extractLsb' 4 3).toNat =
      (match s.fdeState with
       | .idle => 0
       | .blockRequested => 1
       | .blockReady => 2
       | .burstInProgress => 3
       | .blockComplete => 4) ∧
    (statusWord s).getLsbD 7 = s.sinkOpen ∧
    (∀ k : Nat, 8 ≤ k → (statusWord s).getLsbD k = false)

/-- R250: after a legal write of a configuration register with both locks free, the register reads as the value written
and every other register and view reads as before. -/
def Obligations.WrittenRegisterReadsBack : Prop :=
  ∀ (s t : State) (p : Port) (index : Byte) (r : Csr) (v : Word), s.actsAt p .start →
    Csr.ofIndex index = some r → r ≠ .status → r.writeLegal s.cfg v = true → s.linkOwner = none →
    s.sessionOwner = none → exec (.csrw index v) s = .next t →
    csrRead t r = v ∧ ∀ r' : Csr, r' ≠ r → csrRead t r' = csrRead s r'

/-- R250, R324: the configuration registers are constant while any lock is owned, whatever step is taken but RESET. -/
def Obligations.ConfigurationIsFrozenWhileBusy : Prop :=
  ∀ s t : State, (s.linkOwner ≠ none ∨ s.sessionOwner ≠ none) → s.move ≠ .reset → step s = .next t → t.csr = s.csr

/-! ## 41_transport.md: the steps of a conversation -/

/-- R151, R11: a port in ACQUIRE takes a free link; else, when its bound has passed, it returns LINK_BUSY with nothing
sent. For TC, TCNR, TM and DL alike. -/
def Obligations.AcquireTakesAFreeLinkOrTimesOut : Prop :=
  ∀ (s : State) (p : Port) (i : Instr) (call : Call), s.actsIn p .acquire → callOf s i = some call →
    (s.linkOwner = none →
      exec i s = .next ({ s with linkOwner := some s.actor }.putPort { p with ph := .encode, waiting := false })) ∧
    (s.linkOwner ≠ none → s.boundPassed p →
      exec i s = .next (s.putPort { p with ret := ⟨.linkBusy, []⟩, ph := .run, pos := .ret, waiting := false }))

/-- R152, R153, R91: Encode stages `[ESC, SOM] ++ stuff(p) ++ [ESC, EOM]`, which fits the buffer; a payload over
MAX_PAYLOAD leaves with ALLOCATION_FAILURE. -/
def Obligations.EncodeStagesTheFrame : Prop :=
  ∀ (s : State) (p : Port) (i : Instr) (call : Call), s.actsIn p .encode → callOf s i = some call →
    s.txbuf.length = s.cfg.txbufCap →
    let f := [s.cfg.esc, s.cfg.som] ++ stuff s.cfg.esc call.payload ++ [s.cfg.esc, s.cfg.eom]
    (call.payload.length ≤ s.cfg.maxPayload →
      exec i s = .next ({ s with txbuf := f ++ s.txbuf.drop f.length, txlen := f.length }.putPort
        { p with ph := .transmit, waiting := false }) ∧
      f.length = call.payload.length + call.payload.count s.cfg.esc + 4 ∧ f.length ≤ s.cfg.txbufCap) ∧
    (s.cfg.maxPayload < call.payload.length →
      exec i s = .next (s.putPort { p with ret := ⟨.allocationFailure, []⟩, ph := .release, waiting := false }))

/-- R154, R150: Transmit clears `tx_done` and hands the frame over in one step; then it consumes the completion signal,
and TCNR leaves, TC and TM begin to receive; or it leaves with TRANSPORT_TIMEOUT when the bound has passed. -/
def Obligations.TransmitSendsThenWaitsForCompletion : Prop :=
  ∀ (s : State) (p : Port) (i : Instr) (call : Call), s.actsIn p .transmit → callOf s i = some call →
    (p.waiting = false →
      exec i s = .next ({ s with txDone := false, wireOut := s.wireOut ++ [s.txbuf.take s.txlen] }.putPort
        { p with t0 := s.now, bound := s.csr.txDoneTimeout.toNat, waiting := true })) ∧
    (p.waiting = true → s.txDone = true → call.kind = .tcnr →
      exec i s = .next ({ s with txDone := false }.putPort
        { p with ret := ⟨.ok, []⟩, ph := .release, waiting := false })) ∧
    (p.waiting = true → s.txDone = true → call.kind = .tc →
      exec i s = .next ({ s with txDone := false }.putPort
        { p with ph := .receive, k := 0, t0 := s.now, bound := s.csr.rxByteTimeout.toNat, waiting := true })) ∧
    (p.waiting = true → s.txDone = true → call.kind = .tm →
      exec i s = .next ({ s with txDone := false, rxcnt := 0 }.putPort
        { p with ph := .receive, t0 := s.now, bound := s.csr.rxByteTimeout.toNat, waiting := true })) ∧
    (p.waiting = true → s.txDone = false → s.boundPassed p →
      exec i s = .next (s.putPort { p with ret := ⟨.transportTimeout, []⟩, ph := .release, waiting := false }))

/-- R155: one acknowledgment byte: stored at its index, each wait with its own full bound; the fourth decides between OK
and DEVICE_REPORTED_ERROR by `error_status`, the four bytes being the data; a timeout leaves with TRANSPORT_TIMEOUT. -/
def Obligations.AcknowledgmentIsReadByteByByte : Prop :=
  ∀ (s : State) (p : Port) (i : Instr) (call : Call), s.actsIn p .receive → callOf s i = some call →
    call.kind = .tc →
    (∀ (b : Byte) (q : List Byte), s.rxq = b :: q → p.k + 1 < 4 →
      exec i s = .next ({ s with rxq := q, ack := s.ack.set p.k b }.putPort
        { p with k := p.k + 1, t0 := s.now, bound := s.csr.rxByteTimeout.toNat, waiting := true })) ∧
    (∀ (b : Byte) (q : List Byte), s.rxq = b :: q → 4 ≤ p.k + 1 →
      let ack := s.ack.set p.k b
      exec i s = .next ({ s with rxq := q, ack := ack }.putPort
        { p with
          k := p.k + 1
          ret := ⟨if ack.getD 2 0 = s.cfg.ackOk then .ok else .deviceReportedError, ack⟩
          ph := .release
          waiting := false })) ∧
    (s.rxq = [] → s.boundPassed p →
      exec i s = .next (s.putPort { p with ret := ⟨.transportTimeout, []⟩, ph := .release, waiting := false }))

/-- R156, R97: one reply byte: stored, then the end test on the last two bytes, then the capacity test; a timeout leaves
with TRANSPORT_TIMEOUT. -/
def Obligations.ReplyIsReadToTheEndPair : Prop :=
  ∀ (s : State) (p : Port) (i : Instr) (call : Call), s.actsIn p .receive → callOf s i = some call →
    call.kind = .tm →
    (∀ (b : Byte) (q : List Byte), s.rxq = b :: q →
      let buf := s.rxbuf.set s.rxcnt b
      let n := s.rxcnt + 1
      let ended := 2 ≤ n ∧ buf.getD (n - 2) 0 = s.cfg.esc ∧ buf.getD (n - 1) 0 = s.cfg.eom
      let t : State := { s with rxq := q, rxbuf := buf, rxcnt := n }
      (ended → exec i s = .next (t.putPort
        { p with ret := finishReply s.cfg call.req buf n, ph := .release, waiting := false })) ∧
      (¬ended → n = s.cfg.rxbufCap → exec i s = .next (t.putPort
        { p with ret := ⟨.allocationFailure, []⟩, ph := .release, waiting := false })) ∧
      (¬ended → n ≠ s.cfg.rxbufCap → exec i s = .next (t.putPort
        { p with t0 := s.now, bound := s.csr.rxByteTimeout.toNat, waiting := true }))) ∧
    (s.rxq = [] → s.boundPassed p →
      exec i s = .next (s.putPort { p with ret := ⟨.transportTimeout, []⟩, ph := .release, waiting := false }))

/-- R158: Release frees the link in one step, but for a held burst that went well, and returns to the operation. -/
def Obligations.ReleaseFreesTheLink : Prop :=
  ∀ (s : State) (p : Port) (i : Instr) (call : Call), s.actsIn p .release → callOf s i = some call →
    (call.hold = true → p.ret.status = .ok →
      exec i s = .next (s.putPort { p with ph := .run, pos := .ret, waiting := false })) ∧
    ((call.hold = false ∨ p.ret.status ≠ .ok) →
      exec i s = .next ({ s with linkOwner := none }.putPort { p with ph := .run, pos := .ret, waiting := false }))

/-- R150, R151, R160, R161, R162: TC, TCNR and TM with legal operands enter ACQUIRE, the bound and the begin time latched
together, and respond with what their conversation returned, TCNR with empty data. -/
def Obligations.TransportOperationsBeginAndRespond : Prop :=
  ∀ (s : State) (p : Port) (payload : List Byte) (tlmId : Byte) (req : Half),
    let acquiring : Port :=
      { p with ph := .acquire, t0 := s.now, bound := s.csr.linkAcqTimeout.toNat, waiting := true }
    (s.actsAt p .start → payload ≠ [] →
      exec (.tc payload) s = .next (s.putPort acquiring) ∧ exec (.tcnr payload) s = .next (s.putPort acquiring)) ∧
    (s.actsAt p .start → exec (.tm tlmId req) s = .next (s.putPort acquiring)) ∧
    (s.actsAt p .ret →
      exec (.tc payload) s = .next (s.putPort (p.finish p.ret.status p.ret.data)) ∧
      exec (.tcnr payload) s = .next (s.putPort (p.finish p.ret.status [])) ∧
      exec (.tm tlmId req) s = .next (s.putPort (p.finish p.ret.status p.ret.data)))

/-! ## 41_transport.md: whole conversations -/

/-- R160: a telecommand issued with the link free and the queue empty, completed by a TX_EVENT and four bytes: one frame
on the wire, the four bytes as data, the link free again, and nothing else changed. How many steps the port takes is the
model's granularity (log 4), here and in the four statements below. -/
def Obligations.TelecommandRunsToItsAcknowledgment : Prop :=
  ∀ (s : State) (c : Nat) (p : Port) (payload : List Byte) (b0 b1 b2 b3 : Byte), s.ports[c]? = some p →
    p.ph = .run → p.pos = .start → fetch s p = .ok (.tc payload) → payload ≠ [] →
    payload.length ≤ s.cfg.maxPayload → s.linkOwner = none → s.rxq = [] → 4 ≤ s.cfg.rxqCap →
    s.txbuf.length = s.cfg.txbufCap → s.ack.length = 4 →
    let f := [s.cfg.esc, s.cfg.som] ++ stuff s.cfg.esc payload ++ [s.cfg.esc, s.cfg.eom]
    let r : Response := ⟨if b2 = s.cfg.ackOk then .ok else .deviceReportedError, [b0, b1, b2, b3]⟩
    performAll (List.replicate 4 (.port c) ++ [.tx, .port c, .rx b0, .rx b1, .rx b2, .rx b3] ++
        List.replicate 6 (.port c)) s =
      .next { s with
        actor := c
        txDone := false
        txbuf := f ++ s.txbuf.drop f.length
        txlen := f.length
        wireOut := s.wireOut ++ [f]
        ack := [b0, b1, b2, b3]
        ports := s.ports.set c { p with
          rsp := r, ret := r, ph := .done, pos := .start, k := 4, t0 := s.now, bound := s.csr.rxByteTimeout.toNat
          waiting := false } }

/-- R161: TCNR sends its frame, waits for the transmission alone, and pops nothing from the receive queue. -/
def Obligations.TelecommandWithoutReplyLeavesTheQueue : Prop :=
  ∀ (s : State) (c : Nat) (p : Port) (payload : List Byte), s.ports[c]? = some p →
    p.ph = .run → p.pos = .start → fetch s p = .ok (.tcnr payload) → payload ≠ [] →
    payload.length ≤ s.cfg.maxPayload → s.linkOwner = none → s.txbuf.length = s.cfg.txbufCap →
    let f := [s.cfg.esc, s.cfg.som] ++ stuff s.cfg.esc payload ++ [s.cfg.esc, s.cfg.eom]
    performAll (List.replicate 4 (.port c) ++ [.tx] ++ List.replicate 3 (.port c)) s =
      .next { s with
        actor := c
        txDone := false
        txbuf := f ++ s.txbuf.drop f.length
        txlen := f.length
        wireOut := s.wireOut ++ [f]
        ports := s.ports.set c { p with
          rsp := ⟨.ok, []⟩, ret := ⟨.ok, []⟩, ph := .done, pos := .start, t0 := s.now
          bound := s.csr.txDoneTimeout.toNat, waiting := false } }

/-- R162, R156, R157, R164: a telemetry request answered by a reply of any length that holds one end pair, its last two
bytes: a reply under 7 bytes or one that does not destuff is MALFORMED_FRAME, any other is OK with the first `min(req, m)`
bytes of its payload. -/
def Obligations.TelemetryReplyIsCutAndDestuffed : Prop :=
  ∀ (s : State) (c : Nat) (p : Port) (tlmId : Byte) (req : Half) (reply : List Byte), s.ports[c]? = some p →
    p.ph = .run → p.pos = .start → fetch s p = .ok (.tm tlmId req) → 1 ≤ s.cfg.maxPayload →
    s.linkOwner = none → s.rxq = [] → s.txbuf.length = s.cfg.txbufCap → s.rxbuf.length = s.cfg.rxbufCap →
    reply.length ≤ s.cfg.rxqCap → reply.length ≤ s.cfg.rxbufCap →
    (∃ body : List Byte, reply = body ++ [s.cfg.esc, s.cfg.eom]) →
    (∀ n : Nat, 2 ≤ n → n < reply.length →
      ¬(reply.getD (n - 2) 0 = s.cfg.esc ∧ reply.getD (n - 1) 0 = s.cfg.eom)) →
    let f := [s.cfg.esc, s.cfg.som] ++ stuff s.cfg.esc [tlmId] ++ [s.cfg.esc, s.cfg.eom]
    let r : Response :=
      if reply.length < 7 then ⟨.malformedFrame, []⟩
      else
        match destuff s.cfg.esc ((reply.take (reply.length - 2)).drop 5) with
        | none => ⟨.malformedFrame, []⟩
        | some payload => ⟨.ok, payload.take req.toNat⟩
    performAll (List.replicate 4 (.port c) ++ [.tx, .port c] ++ reply.map .rx ++
        List.replicate (reply.length + 2) (.port c)) s =
      .next { s with
        actor := c
        txDone := false
        txbuf := f ++ s.txbuf.drop f.length
        txlen := f.length
        wireOut := s.wireOut ++ [f]
        rxbuf := reply ++ s.rxbuf.drop reply.length
        rxcnt := reply.length
        ports := s.ports.set c { p with
          rsp := r, ret := r, ph := .done, pos := .start, t0 := s.now, bound := s.csr.rxByteTimeout.toNat
          waiting := false } }

/-- R170: without a TX_EVENT a telecommand answers TRANSPORT_TIMEOUT at its first scheduling once `TX_DONE_TIMEOUT` ticks
have passed, with the link free. -/
def Obligations.MissingTransmitCompleteTimesOut : Prop :=
  ∀ (s : State) (c : Nat) (p : Port) (payload : List Byte) (k : Nat), s.ports[c]? = some p →
    p.ph = .run → p.pos = .start → fetch s p = .ok (.tc payload) → payload ≠ [] →
    payload.length ≤ s.cfg.maxPayload → s.linkOwner = none → s.txbuf.length = s.cfg.txbufCap →
    s.csr.txDoneTimeout.toNat ≤ k →
    let f := [s.cfg.esc, s.cfg.som] ++ stuff s.cfg.esc payload ++ [s.cfg.esc, s.cfg.eom]
    performAll (List.replicate 4 (.port c) ++ List.replicate k .tick ++ List.replicate 3 (.port c)) s =
      .next { s with
        actor := c
        now := s.now + k
        txDone := false
        txbuf := f ++ s.txbuf.drop f.length
        txlen := f.length
        wireOut := s.wireOut ++ [f]
        ports := s.ports.set c { p with
          rsp := ⟨.transportTimeout, []⟩, ret := ⟨.transportTimeout, []⟩, ph := .done, pos := .start, t0 := s.now
          bound := s.csr.txDoneTimeout.toNat, waiting := false } }

/-- R151, R271: while another port keeps the link, a transport operation answers LINK_BUSY once `LINK_ACQ_TIMEOUT` ticks
have passed; nothing was sent and only its own port and the clock have changed. -/
def Obligations.BusyLinkIsAnsweredLinkBusy : Prop :=
  ∀ (s : State) (c d : Nat) (p : Port) (i : Instr) (k : Nat), s.ports[c]? = some p → p.ph = .run →
    p.pos = .start → fetch s p = .ok i →
    ((∃ payload, i = .tc payload ∧ payload ≠ []) ∨ (∃ payload, i = .tcnr payload ∧ payload ≠ []) ∨
      ∃ tlmId req, i = .tm tlmId req) →
    s.linkOwner = some d → s.csr.linkAcqTimeout.toNat ≤ k →
    performAll ([.port c] ++ List.replicate k .tick ++ [.port c, .port c]) s =
      .next { s with
        actor := c
        now := s.now + k
        ports := s.ports.set c { p with
          rsp := ⟨.linkBusy, []⟩, ret := ⟨.linkBusy, []⟩, ph := .done, pos := .start, t0 := s.now
          bound := s.csr.linkAcqTimeout.toNat, waiting := false } }

/-! ## 42_download.md: the steps of a download -/

/-- R201, R202, R114 (5): DL waits for the session lock, its bound latched; a size or a block length of 0 is answered
BAD_DESCRIPTOR first. The lock is taken when free; SESSION_BUSY when it is not and the bound has passed, nothing else
changed. -/
def Obligations.SessionLockIsTakenOrBusy : Prop :=
  ∀ (s : State) (p : Port) (type counter : Byte) (size : Word) (blen : Half),
    (s.actsAt p .start → size ≠ 0 → blen ≠ 0 → exec (.dl type counter size blen) s = .next (s.putPort
      { p with pos := .session, t0 := s.now, bound := s.csr.sessionAcqTimeout.toNat, waiting := true })) ∧
    (s.actsAt p .start → (size = 0 ∨ blen = 0) →
      exec (.dl type counter size blen) s = .next (s.putPort (p.finish .badDescriptor []))) ∧
    (s.actsAt p .session → s.sessionOwner = none → exec (.dl type counter size blen) s =
      .next ({ s with sessionOwner := some s.actor }.putPort { p with pos := .create, waiting := false })) ∧
    (s.actsAt p .session → s.sessionOwner ≠ none → s.boundPassed p →
      exec (.dl type counter size blen) s = .next (s.putPort (p.finish .sessionBusy [])))

/-- R203 (1): the operands and the four parameters are latched and the offset starts at 0; a block that needs more packets
than the hole map has bits frees the session and is answered BAD_DESCRIPTOR, the sink not touched. The mark
`sessionLatched` is the model's own (log 7). -/
def Obligations.SessionIsCreated : Prop :=
  ∀ (s : State) (p : Port) (type counter : Byte) (size : Word) (blen : Half), s.actsAt p .create →
    let latched : State := { s with
      dlType := type
      dlCounter := counter
      dlSize := size
      dlOffset := 0
      dlBlockLen := blen
      dlPdl := s.csr.pktDataLen
      dlFill := s.csr.gapFillByte.extractLsb' 0 8
      dlRetry := s.csr.pktRetryBudget
      dlPolls := s.csr.pollBudget
      sessionLatched := true }
    (ceilDiv blen.toNat s.csr.pktDataLen.toNat ≤ s.cfg.holeMapBits →
      exec (.dl type counter size blen) s =
        .next (latched.putPort { p with pos := .opening, waiting := false })) ∧
    (s.cfg.holeMapBits < ceilDiv blen.toNat s.csr.pktDataLen.toNat →
      exec (.dl type counter size blen) s =
        .next ({ latched with sessionOwner := none }.putPort (p.finish .badDescriptor [])))

/-- R203 (2), R52, R276: SinkOpen. On `fail` the session is freed and the answer is FILESYSTEM_FAILURE; on `ok` the file
is current, empty if the sink had none, of any content if it had one (log 10), and every other file is as it was.
-/
def Obligations.SinkOpenDecidesTheSession : Prop :=
  ∀ (s s' : State) (p : Port) (ok : Bool) (type counter : Byte) (size : Word) (blen : Half), s.actsAt p .opening →
    sinkDraw s = (ok, s') →
    (ok = false → exec (.dl type counter size blen) s =
      .next ({ s' with sessionOwner := none }.putPort (p.finish .filesystemFailure []))) ∧
    (ok = true → fileContent s ⟨type, counter⟩ = none → exec (.dl type counter size blen) s =
      .next ({ s' with sink := ⟨filesPut ⟨type, counter⟩ [] s.sink.files, some ⟨type, counter⟩⟩
                       sinkOpen := true }.putPort { p with pos := .request, waiting := false })) ∧
    (ok = true → fileContent s ⟨type, counter⟩ ≠ none → ∃ content : List Byte,
      exec (.dl type counter size blen) s =
        .next ({ s' with sink := ⟨filesPut ⟨type, counter⟩ content s.sink.files, some ⟨type, counter⟩⟩
                         sinkOpen := true
                         draws := s'.draws + 1 }.putPort { p with pos := .request, waiting := false }))

/-- R52, U18, the model's choice of log 9: a sink call takes the next settled answer; with none settled the
answer is a free value, about which nothing is said; no register of the block changes. -/
def Obligations.SinkAnswersAreDrawn : Prop :=
  ∀ s : State,
    (∀ (ok : Bool) (rest : List Bool), s.sinkAnswers = ok :: rest →
      sinkDraw s = (ok, { s with sinkAnswers := rest })) ∧
    (s.sinkAnswers = [] → ∃ ok : Bool, sinkDraw s = (ok, { s with draws := s.draws + 1 }))

/-- R204 to R206: the three conversations of the engine begin, each in its state, with the poll budget spent before each
poll; an exhausted nonzero budget aborts with TRANSPORT_TIMEOUT. -/
def Obligations.DownloadConversationsBegin : Prop :=
  ∀ (s : State) (p : Port) (type counter : Byte) (size : Word) (blen : Half),
    let acquiring : Port :=
      { p with ph := .acquire, t0 := s.now, bound := s.csr.linkAcqTimeout.toNat, waiting := true }
    (s.actsAt p .request → exec (.dl type counter size blen) s =
      .next ({ s with fdeState := .blockRequested }.putPort acquiring)) ∧
    (s.actsAt p .poll → s.dlPolls = 0 → exec (.dl type counter size blen) s = .next (s.putPort acquiring)) ∧
    (s.actsAt p .poll → s.dlPolls ≠ 0 → s.polls ≠ 0 → exec (.dl type counter size blen) s =
      .next ({ s with polls := s.polls - 1 }.putPort acquiring)) ∧
    (s.actsAt p .poll → s.dlPolls ≠ 0 → s.polls = 0 → exec (.dl type counter size blen) s =
      .next (s.putPort { p with ret := ⟨.transportTimeout, []⟩, pos := .abort, waiting := false })) ∧
    (s.actsAt p .burst → exec (.dl type counter size blen) s =
      .next ({ s with fdeState := .burstInProgress }.putPort acquiring))

/-- R102, R204 to R206: what each of the three conversations sends and asks for, with the default encoders; the burst
alone can hold the link, when BURST_HOLDS_LINK is true. Of a status reply bit 0 of the first byte is ready, bit 1 is
parameter error, and the bytes after it are ignored. -/
def Obligations.DownloadConversationsCarryTheDeviceMessages : Prop :=
  ∀ (s : State) (type counter : Byte) (size : Word) (blen : Half), s.cfg.encoders = .standard →
    (s.fdeState = .blockRequested → s.dlOffset < 4294967296 → callOf s (.dl type counter size blen) =
      some ⟨.tc, [0x70, s.dlType, s.dlCounter,
        (BitVec.ofNat 32 s.dlOffset).extractLsb' 0 8, (BitVec.ofNat 32 s.dlOffset).extractLsb' 8 8,
        (BitVec.ofNat 32 s.dlOffset).extractLsb' 16 8, (BitVec.ofNat 32 s.dlOffset).extractLsb' 24 8,
        s.dlBlockLen.extractLsb' 0 8, s.dlBlockLen.extractLsb' 8 8], 0, false⟩) ∧
    (s.fdeState = .blockReady → callOf s (.dl type counter size blen) =
      some ⟨.tm, [s.cfg.tlmIdBlockStatus], s.cfg.tmLenBlockStatus, false⟩) ∧
    (s.fdeState = .burstInProgress → s.dlPdl.toNat < 256 → callOf s (.dl type counter size blen) =
      some ⟨.tc, [0x77, s.dlPdl.extractLsb' 0 8, 0x01], 0, s.cfg.burstHoldsLink⟩) ∧
    (∀ (b : Byte) (more : List Byte), decBlockStatus s.cfg (b :: more) = (b.getLsbD 0, b.getLsbD 1))

/-- R101: under a legal configuration the two telecommands of the engine are non-empty and at most MAX_PAYLOAD long,
whatever encoders it has. -/
def Obligations.DeviceMessagesKeepTheirContract : Prop :=
  ∀ (g : Params) (type counter : Byte) (offset blockLen pdl : Nat), g.legal = true →
    (encLoadBlock g type counter offset blockLen ≠ [] ∧
      (encLoadBlock g type counter offset blockLen).length ≤ g.maxPayload) ∧
    (encInitBurst g pdl ≠ [] ∧ (encInitBurst g pdl).length ≤ g.maxPayload)

/-- R204 to R207: what the engine does with the answer of each of its conversations. A poll is judged by its status, then
its length, then the parameter error, then ready; every status but OK aborts. The mark `indexSet` is the model's own (log 7). -/
def Obligations.DownloadConversationsReturn : Prop :=
  ∀ (s : State) (p : Port) (type counter : Byte) (size : Word) (blen : Half), s.actsAt p .ret →
    let abort (st : Status) (data : List Byte) : Port :=
      { p with ret := ⟨st, data⟩, pos := .abort, waiting := false }
    let goes (pos : RunPos) : Port := { p with pos := pos, waiting := false }
    (s.fdeState = .blockRequested → p.ret.status = .ok → exec (.dl type counter size blen) s =
      .next ({ s with fdeState := .blockReady, polls := s.dlPolls.toNat }.putPort (goes .poll))) ∧
    ((s.fdeState = .blockRequested ∨ s.fdeState = .burstInProgress) → p.ret.status ≠ .ok →
      exec (.dl type counter size blen) s = .next (s.putPort (abort p.ret.status p.ret.data))) ∧
    (s.fdeState = .blockReady → p.ret.status ≠ .ok →
      exec (.dl type counter size blen) s = .next (s.putPort (abort p.ret.status []))) ∧
    (s.fdeState = .blockReady → p.ret.status = .ok → p.ret.data.length < s.cfg.tmLenBlockStatus →
      exec (.dl type counter size blen) s = .next (s.putPort (abort .malformedFrame []))) ∧
    (∀ ready perr : Bool, s.fdeState = .blockReady → p.ret.status = .ok →
      s.cfg.tmLenBlockStatus ≤ p.ret.data.length → decBlockStatus s.cfg p.ret.data = (ready, perr) →
      exec (.dl type counter size blen) s =
        .next (s.putPort (if perr then abort .deviceReportedError [] else if ready then goes .burst else goes .poll))) ∧
    (s.fdeState = .burstInProgress → p.ret.status = .ok → exec (.dl type counter size blen) s =
      .next ({ s with
          npk := ceilDiv s.dlBlockLen.toNat s.dlPdl.toNat
          rem := s.dlBlockLen.toNat
          idx := 0
          indexSet := true }.putPort (goes .loop)))

/-- R207, R208: the head of the receive loop, the head of the attempt loop, a read that has used up its attempts, a byte
wait that times out, and one packet byte: stored at index `k`, a new wait with its own full bound before the last byte of
the packet, the look at the counter after it. -/
def Obligations.PacketReadIsRetriedThenFails : Prop :=
  ∀ (s : State) (p : Port) (type counter : Byte) (size : Word) (blen : Half),
    (s.actsAt p .loop → s.idx < s.npk → exec (.dl type counter size blen) s =
      .next ({ s with tries := s.dlRetry.toNat + 1 }.putPort { p with pos := .attempt, waiting := false })) ∧
    (s.actsAt p .loop → s.npk ≤ s.idx → exec (.dl type counter size blen) s =
      .next (s.putPort { p with pos := .blockEnd, waiting := false })) ∧
    (s.actsAt p .attempt → 0 < s.tries → exec (.dl type counter size blen) s =
      .next ({ s with tries := s.tries - 1 }.putPort
        { p with pos := .packet, k := 0, t0 := s.now, bound := s.csr.rxByteTimeout.toNat, waiting := true })) ∧
    (s.actsAt p .attempt → s.tries = 0 → exec (.dl type counter size blen) s =
      .next (s.putPort { p with ret := ⟨.transportTimeout, []⟩, pos := .abort, waiting := false })) ∧
    (s.actsAt p .packet → s.rxq = [] → s.boundPassed p → exec (.dl type counter size blen) s =
      .next (s.putPort { p with pos := .attempt, waiting := false })) ∧
    (∀ (b : Byte) (q : List Byte), s.actsAt p .packet → s.rxq = b :: q →
      let t : State := { s with rxq := q, pktbuf := s.pktbuf.set p.k b }
      let len := 5 + s.dlPdl.toNat + s.cfg.pktTrlLen
      (p.k + 1 < len → exec (.dl type counter size blen) s = .next (t.putPort
        { p with k := p.k + 1, t0 := s.now, bound := s.csr.rxByteTimeout.toNat, waiting := true })) ∧
      (p.k + 1 = len → exec (.dl type counter size blen) s = .next (t.putPort
        { p with pos := .check, k := p.k + 1, waiting := false })))

/-- R208: an attempt with a whole packet in the queue takes exactly `PKT_LEN` bytes, in order, into `pktbuf`. -/
def Obligations.WholePacketIsReadIntoTheBuffer : Prop :=
  ∀ (s : State) (p : Port) (type counter : Byte) (size : Word) (blen : Half) (d rest : List Byte),
    s.actsAt p .attempt → 0 < s.tries → d.length = s.cfg.pktLen s.dlPdl.toNat → s.rxq = d ++ rest →
    d.length ≤ s.pktbuf.length →
    execTimes (d.length + 1) (.dl type counter size blen) s =
      .next ({ s with tries := s.tries - 1, rxq := rest, pktbuf := d ++ s.pktbuf.drop d.length }.putPort
        { p with pos := .check, k := d.length, t0 := s.now, bound := s.csr.rxByteTimeout.toNat, waiting := false })

/-- R99, R63, R211, R279: the counter is the byte at PKT_SEQ_OFF and 256 times the byte after it. Below the expected index it
aborts with PROTOCOL_FAULT, marks the run (log 11) and writes nothing; any other goes on to the fill and the data. -/
def Obligations.RegressingCounterAborts : Prop :=
  ∀ (s : State) (p : Port) (type counter : Byte) (size : Word) (blen : Half), s.actsAt p .check →
    let seq := (s.pktbuf.getD s.cfg.pktSeqOff 0).toNat + 256 * (s.pktbuf.getD (s.cfg.pktSeqOff + 1) 0).toNat
    (seq < s.idx → exec (.dl type counter size blen) s =
      .next ({ s with seq := seq, protocolFaulted := true }.putPort
        { p with ret := ⟨.protocolFault, []⟩, pos := .abort, waiting := false })) ∧
    (s.idx ≤ seq → exec (.dl type counter size blen) s =
      .next ({ s with seq := seq }.putPort { p with pos := .deliver, waiting := false }))

/-- R209, R210, R276: one index of the sequencing check. Nothing left to write makes no sink call; else one write of the
fill below the counter, of the packet's data at it; a failed write aborts with FILESYSTEM_FAILURE. -/
def Obligations.OneIndexIsWrittenOrAborts : Prop :=
  ∀ (s s' : State) (p : Port) (type counter : Byte) (size : Word) (blen : Half), s.actsAt p .deliver →
    let k := min s.dlPdl.toNat s.rem
    let bs := if s.idx < s.seq then List.replicate k s.dlFill else (s.pktbuf.drop 5).take k
    let goes : Port := { p with pos := if s.idx < s.seq then .deliver else .loop, waiting := false }
    (bs = [] → exec (.dl type counter size blen) s =
      .next ({ s with rem := s.rem - k, idx := s.idx + 1 }.putPort goes)) ∧
    (bs ≠ [] → sinkDraw s = (true, s') → ∀ f : FileId, s.sink.cur = some f →
      exec (.dl type counter size blen) s = .next ({ s' with
        sink := ⟨filesPut f ((fileContent s f).getD [] ++ bs) s.sink.files, some f⟩
        rem := s.rem - k
        idx := s.idx + 1 }.putPort goes)) ∧
    (bs ≠ [] → sinkDraw s = (false, s') → exec (.dl type counter size blen) s =
      .next (s'.putPort { p with ret := ⟨.filesystemFailure, []⟩, pos := .abort, waiting := false }))

/-- R210, R212, in closed form: from an index at or below the counter, with every write accepted, the fill is
`min(rem, (seq − i) * dl_pdl)` bytes, the packet's own data follow as far as the block reaches, and `i` is `seq + 1`. -/
def Obligations.GapFillHasItsClosedForm : Prop :=
  ∀ (s : State) (p : Port) (type counter : Byte) (size : Word) (blen : Half) (f : FileId) (old : List Byte)
    (more : List Bool), s.actsAt p .deliver → s.idx ≤ s.seq → 1 ≤ s.dlPdl.toNat → s.sink.cur = some f →
    5 + s.dlPdl.toNat ≤ s.pktbuf.length → fileContent s f = some old →
    s.sinkAnswers = List.replicate (min (s.seq - s.idx + 1) (ceilDiv s.rem s.dlPdl.toNat)) true ++ more →
    let gap := min s.rem ((s.seq - s.idx) * s.dlPdl.toNat)
    let own := min (s.rem - gap) s.dlPdl.toNat
    ∃ files : List (FileId × List Byte),
      execTimes (s.seq - s.idx + 1) (.dl type counter size blen) s =
        .next ({ s with
          sinkAnswers := more
          sink := ⟨files, some f⟩
          rem := s.rem - gap - own
          idx := s.seq + 1 }.putPort { p with pos := .loop, waiting := false }) ∧
      filesGet f files = some (old ++ List.replicate gap s.dlFill ++ (s.pktbuf.drop 5).take own) ∧
      ∀ f' : FileId, f' ≠ f → filesGet f' files = filesGet f' s.sink.files

/-- R207 to R213: the receive loop over the packets that arrive, dropped ones filled, appends exactly the bytes left of
the block to the current file, leaves nothing left and the rest of the queue unread. -/
def Obligations.BurstReconstructsTheBlock : Prop :=
  ∀ (s : State) (p : Port) (type counter : Byte) (size : Word) (blen : Half) (f : FileId) (old : List Byte)
    (packets : List (List Byte)) (rest : List Byte) (more : List Bool), s.actsAt p .loop →
    1 ≤ s.dlPdl.toNat → s.npk = ceilDiv s.dlBlockLen.toNat s.dlPdl.toNat →
    s.rem + min (s.idx * s.dlPdl.toNat) s.dlBlockLen.toNat = s.dlBlockLen.toNat →
    s.cfg.pktLen s.dlPdl.toNat ≤ s.pktbuf.length → s.cfg.pktSeqOff + 1 < 5 →
    s.sink.cur = some f → fileContent s f = some old →
    burstRun s.cfg s.dlPdl.toNat s.npk s.idx packets → s.rxq = packets.flatten ++ rest →
    s.sinkAnswers = List.replicate (s.npk - s.idx) true ++ more →
    let bytes := blockBytes s.cfg s.dlPdl.toNat s.dlFill s.idx s.rem packets
    ∃ (n : Nat) (t : State) (p' : Port),
      execTimes n (.dl type counter size blen) s = .next t ∧ t.actsAt p' .blockEnd ∧ t.rem = 0 ∧ t.rxq = rest ∧
      bytes.length = s.rem ∧ fileContent t f = some (old ++ bytes) ∧
      (∀ f' : FileId, f' ≠ f → fileContent t f' = fileContent s f') ∧ t.sinkAnswers = more ∧
      t.linkOwner = s.linkOwner ∧ t.sessionOwner = s.sessionOwner ∧ t.fdeState = s.fdeState ∧
      t.wireOut = s.wireOut ∧ t.csr = s.csr ∧ t.now = s.now

/-- R213: the byte at position `q` of the reconstructed block is data byte `q mod dl_pdl` of the packet with counter
`q div dl_pdl` if that packet was received in its turn, and the fill otherwise; the counter is the two bytes of R99. -/
def Obligations.BlockByteIsPacketDataOrFill : Prop :=
  ∀ (g : Params) (pdl npk rem : Nat) (fill : Byte) (packets : List (List Byte)) (q : Nat), 1 ≤ pdl →
    npk = ceilDiv rem pdl → burstRun g pdl npk 0 packets → q < rem →
    let counter (d : List Byte) : Nat := (d.getD g.pktSeqOff 0).toNat + 256 * (d.getD (g.pktSeqOff + 1) 0).toNat
    (∀ d ∈ packets, counter d = q / pdl →
      (blockBytes g pdl fill 0 rem packets)[q]? = d[5 + q % pdl]?) ∧
    ((∀ d ∈ packets, counter d ≠ q / pdl) → (blockBytes g pdl fill 0 rem packets)[q]? = some fill)

/-- R214, R217, R276: a block is complete: the link is freed if this port owns it, the offset advances without wrapping,
and the next block is requested while it is below the size. At the end the sink is closed, the engine is Idle, the session
is freed, and the response is OK, or FILESYSTEM_FAILURE if the close answered `fail`. -/
def Obligations.CompletedBlocksEndTheDownload : Prop :=
  ∀ (s s' : State) (p : Port) (ok : Bool) (type counter : Byte) (size : Word) (blen : Half),
    (s.actsAt p .blockEnd → exec (.dl type counter size blen) s = .next ({ s with
      linkOwner := if s.linkOwner = some s.actor then none else s.linkOwner
      fdeState := .blockComplete
      dlOffset := s.dlOffset + s.dlBlockLen.toNat }.putPort { p with
        pos := if s.dlOffset + s.dlBlockLen.toNat < s.dlSize.toNat then .request else .close, waiting := false })) ∧
    (s.actsAt p .close → sinkDraw s = (ok, s') → exec (.dl type counter size blen) s = .next ({ s' with
      sink := ⟨s.sink.files, none⟩
      sinkOpen := false
      fdeState := .idle
      sessionOwner := none }.putPort (p.finish (if ok then .ok else .filesystemFailure) [])))

/-- R215, R288: Abort frees the link if this port owns it, closes an open sink and ignores its answer, returns to Idle,
frees the session and responds with the status that caused it; nothing is removed from the sink. -/
def Obligations.AbortReleasesEverything : Prop :=
  ∀ (s s' : State) (p : Port) (ok : Bool) (type counter : Byte) (size : Word) (blen : Half), s.actsAt p .abort →
    sinkDraw s = (ok, s') →
    let link := if s.linkOwner = some s.actor then none else s.linkOwner
    (s.sinkOpen = true → exec (.dl type counter size blen) s = .next ({ s' with
      linkOwner := link
      sink := ⟨s.sink.files, none⟩
      sinkOpen := false
      fdeState := .idle
      sessionOwner := none }.putPort (p.finish p.ret.status p.ret.data))) ∧
    (s.sinkOpen = false → exec (.dl type counter size blen) s = .next ({ s with
      linkOwner := link
      fdeState := .idle
      sessionOwner := none }.putPort (p.finish p.ret.status p.ret.data)))

/-! ## 60_exceptions.md, 10_state.md: events and the host's own steps -/

/-- R281, R64, R65, R282, R283, R285: RX_EVENT appends its byte, or, the queue full, loses it and sets `rx_overflow`;
TX_EVENT sets `tx_done`; TICK advances `now`; all always. RX_EVENT and TX_EVENT commute. -/
def Obligations.EventsAreAlwaysEnabled : Prop :=
  ∀ (s : State) (b : Byte),
    (s.rxq.length < s.cfg.rxqCap → perform (.rx b) s = .next { s with rxq := s.rxq ++ [b] }) ∧
    (s.cfg.rxqCap ≤ s.rxq.length → perform (.rx b) s = .next { s with rxOverflow := true }) ∧
    perform .tx s = .next { s with txDone := true } ∧
    perform .tick s = .next { s with now := s.now + 1 } ∧
    performAll [.rx b, .tx] s = performAll [.tx, .rx b] s

/-- R29, R103, R290, U14: issue latches the descriptor of an idle port; collect takes the response of a port that is done;
on any other phase there is no such step, which the model answers with a named fault (log 6). The model's choices: the latch
keeps the first DESC_CAP bytes and the length presented (log 12), and the response collected is recorded in the model's own
list (log 22). -/
def Obligations.HostIssuesAndCollects : Prop :=
  ∀ (s : State) (c : Nat) (p : Port) (d : List Byte), s.ports[c]? = some p →
    (p.ph = .idle → perform (.issue c d) s = .next { s with
      ports := s.ports.set c { p with
        desc := d.take s.cfg.descCap, descLen := d.length, ph := .run, pos := .start, waiting := false } }) ∧
    (p.ph ≠ .idle → perform (.issue c d) s = .fault .stuckIssue) ∧
    (p.ph = .done → perform (.collect c) s = .next { s with
      ports := s.ports.set c { p with ph := .idle, waiting := false }
      collected := s.collected ++ [(c, p.rsp)] }) ∧
    (p.ph ≠ .done → perform (.collect c) s = .fault .stuckCollect)

/-- R13, R29, R103: a step that schedules a busy port whose latched descriptor decodes to an operation is that operation's
step on that port; an idle or done port does nothing (log 5). -/
def Obligations.StepRunsTheDecodedOperation : Prop :=
  ∀ (s : State) (c : Nat) (p : Port) (rest : List Move), s.cfg.legal = true → s.schedule = .port c :: rest →
    s.ports[c]? = some p →
    (∀ i : Instr, p.ph ≠ .idle → p.ph ≠ .done → decode s.cfg.descCap p.descLen p.desc = .ok i →
      step s = exec i { s with schedule := rest, actor := c }) ∧
    (p.ph = .idle ∨ p.ph = .done → step s = .next { s with schedule := rest })

/-- Every atomic step of every operation, on a port that exists, in every state, answers a next state. Where the operation
has a step this is R270 and R287, an error is a status of a response and never a stop of the machine; at a place where it
has none it is the model's choice of log 24. R11, R297 and the model's choice of log 5: the step of a port whose wait has
neither its event nor its timeout leaves the state as it is. -/
def Obligations.EveryOperationAnswersANextState : Prop :=
  ∀ (s : State) (p : Port) (i : Instr),
    (s.ports[s.actor]? = some p → ∃ t : State, exec i s = .next t) ∧
    (∀ call : Call, callOf s i = some call → ¬s.boundPassed p →
      ((s.actsIn p .acquire ∧ s.linkOwner ≠ none) ∨
        (s.actsIn p .transmit ∧ p.waiting = true ∧ s.txDone = false) ∨ (s.actsIn p .receive ∧ s.rxq = [])) →
      exec i s = .next s) ∧
    (∀ (type counter : Byte) (size : Word) (blen : Half), i = .dl type counter size blen → ¬s.boundPassed p →
      ((s.actsAt p .session ∧ s.sessionOwner ≠ none) ∨ (s.actsAt p .packet ∧ s.rxq = [])) → exec i s = .next s)

/-- R310, R311, R55: RESET, from any state. Every value the table gives, and the sink, the wire history and what is no
part of the block as they were. The registers the table leaves unspecified are not spoken of here (log 7). -/
def Obligations.ResetSetsTheTable : Prop :=
  ∀ s : State, ∃ t : State, perform .reset s = .next t ∧
    t.rxq = [] ∧ t.txDone = false ∧ t.rxOverflow = false ∧ t.linkOwner = none ∧ t.txlen = 0 ∧ t.rxcnt = 0 ∧
    t.ports.length = s.cfg.nCallers ∧ (∀ p ∈ t.ports, p.ph = .idle) ∧ t.sessionOwner = none ∧ t.fdeState = .idle ∧
    t.sinkOpen = false ∧ t.holeMap = List.replicate s.cfg.holeMapBits false ∧
    t.csr = ⟨s.cfg.rxByteTimeoutReset, s.cfg.txDoneTimeoutReset, s.cfg.linkAcqTimeoutReset,
      s.cfg.sessionAcqTimeoutReset, s.cfg.pktRetryBudgetReset, 20, s.cfg.pollBudgetReset,
      s.cfg.gapFillByteReset⟩ ∧
    t.cfg = s.cfg ∧ t.sink = s.sink ∧ t.wireOut = s.wireOut

/-! ## 20_memory.md, 10_state.md, 70_reset_and_hazards.md: what every step keeps -/

/-- R60, R20: the canonical form of every space of bytes is kept by every step, from every state that has it. -/
def Obligations.EveryStepKeepsTheMemoryForm : Prop :=
  ∀ s t : State, Memory.wf s = true → step s = .next t → Memory.wf t = true

/-- R24, R30, R71, R72, R216, R217: the locks are owned exactly as the spec says, after every step from every state in
which they are: a port in the middle of a conversation owns the link, its owner is such a port or a download in its burst,
and the session's owner is the one port past its session wait. -/
def Obligations.EveryStepKeepsTheLocks : Prop :=
  ∀ s t : State, s.lockInv → step s = .next t → t.lockInv

/-- R37, R114, R32, R33, R207 to R214, R155, R156: legal control registers, decoded operations, locks, the byte budget of
a block, the register widths and the buffer cursors, all kept by every step. For the step RESET the widths of registers
that R55 leaves unspecified rest on the zeros of logs 7 and 16. -/
def Obligations.EveryStepKeepsTheRunInvariant : Prop :=
  ∀ s t : State, s.runInv → step s = .next t → t.runInv

/-- R55, R329: the state after reset is clean under every configuration; the three invariants hold of it under every
legal one. The model's choices: which configuration `State.reset` has (logs 1 and 8), and, for the widths in `runInv` of the
registers that R55 leaves unspecified, the zeros they hold (log 7). -/
def Obligations.StateAfterResetIsCleanAndInvariant : Prop :=
  State.reset = State.resetWith standard ∧ standard.legal = true ∧
  ∀ g : Params, (State.resetWith g).clean ∧
    (g.legal = true →
      Memory.wf (State.resetWith g) = true ∧ (State.resetWith g).lockInv ∧ (State.resetWith g).runInv)

/-- R159, R216, R217, R329: when every port is idle the block is quiescent; a port that is IDLE or DONE owns neither lock,
however its operation ended and whatever the other ports do; outside its conversation a TC, TCNR or TM does not own the
link. -/
def Obligations.EveryExitFreesTheLocks : Prop :=
  ∀ s : State, s.lockInv →
    (s.ended → s.quiescent) ∧
    (∀ (c : Nat) (p : Port), s.ports[c]? = some p → (p.ph = .idle ∨ p.ph = .done) →
      s.linkOwner ≠ some c ∧ s.sessionOwner ≠ some c) ∧
    (∀ (c : Nat) (p : Port) (i : Instr), s.ports[c]? = some p → p.ph = .run → fetch s p = .ok i →
      ((∃ payload, i = .tc payload ∨ i = .tcnr payload) ∨ ∃ tlmId req, i = .tm tlmId req) →
      s.linkOwner ≠ some c)

/-- R24, R30, R71: the staging buffers change and frames leave, one at a time, only by a step of the port that owns the
link; the registers of the download and the sink change only by a step of the port that owns the session (RESET apart). -/
def Obligations.RegistersChangeOnlyForTheirLockOwner : Prop :=
  ∀ s t : State, s.lockInv → s.move ≠ .reset → step s = .next t →
    ((t.txbuf = s.txbuf ∧ t.txlen = s.txlen ∧ t.rxbuf = s.rxbuf ∧ t.rxcnt = s.rxcnt ∧ t.ack = s.ack ∧
        t.wireOut = s.wireOut) ∨
      ∃ c : Nat, s.move = .port c ∧ s.linkOwner = some c ∧ ∃ more : List (List Byte), more.length ≤ 1 ∧
        t.wireOut = s.wireOut ++ more) ∧
    ((t.fdeState = s.fdeState ∧ t.sinkOpen = s.sinkOpen ∧ t.dlType = s.dlType ∧ t.dlCounter = s.dlCounter ∧
        t.dlSize = s.dlSize ∧ t.dlOffset = s.dlOffset ∧ t.dlBlockLen = s.dlBlockLen ∧ t.dlPdl = s.dlPdl ∧
        t.dlFill = s.dlFill ∧ t.dlRetry = s.dlRetry ∧ t.dlPolls = s.dlPolls ∧ t.npk = s.npk ∧ t.idx = s.idx ∧
        t.rem = s.rem ∧ t.seq = s.seq ∧ t.tries = s.tries ∧ t.polls = s.polls ∧ t.pktbuf = s.pktbuf ∧
        t.sink = s.sink) ∨
      ∃ c : Nat, s.move = .port c ∧ s.sessionOwner = some c)

/-- R69, R215, R223: the sink is append-only: a step keeps every file's bytes and may only add to their end, but for the
open of an existing file, whose content the spec leaves open. -/
def Obligations.SinkIsAppendOnly : Prop :=
  ∀ (s t : State) (f : FileId) (bs : List Byte), step s = .next t → fileContent s f = some bs →
    (∃ more : List Byte, fileContent t f = some (bs ++ more)) ∨
    ∃ (c : Nat) (p : Port) (size : Word) (blen : Half), s.move = .port c ∧ s.ports[c]? = some p ∧ p.pos = .opening ∧
      fetch s p = .ok (.dl f.type f.counter size blen)

/-- R64, R66, R73 (b): the queue is first-in first-out: a port's step leaves it or takes its head, RX_EVENT leaves it or
adds to its tail, RESET empties it, and no other step touches it. -/
def Obligations.ReceiveQueueIsFifo : Prop :=
  ∀ s t : State, step s = .next t →
    t.rxq = s.rxq ∨ (∃ (c : Nat) (b : Byte), s.move = .port c ∧ s.rxq = b :: t.rxq) ∨
    (∃ b : Byte, s.move = .rx b ∧ t.rxq = s.rxq ++ [b]) ∨ (s.move = .reset ∧ t.rxq = [])

/-- R28, R36, R54, R295: a port's step changes no other port's registers, no elaboration parameter, not the clock, and
collects nothing. -/
def Obligations.PortStepTouchesNoOtherPort : Prop :=
  ∀ (s t : State) (c : Nat), s.move = .port c → step s = .next t →
    (∀ d : Nat, d ≠ c → t.ports[d]? = s.ports[d]?) ∧ t.cfg = s.cfg ∧ t.now = s.now ∧ t.holeMap = s.holeMap ∧
    t.collected = s.collected
end

