-- ==== Sys2Proof/Laws/State.lean ====
section
/-! SUPPORT. The small lemmas of the record updates: one per field per update, true by definition, so that no proof unfolds
an update of the state or of a port's registers. -/

namespace Sys2Proof.Machine

open Sys2Proof Sys2Proof.Config

/-! ## `putPort` writes the acting port's registers and nothing else -/

@[simp] theorem putPort_ports (s : State) (p : Port) : (s.putPort p).ports = s.ports.set s.actor p := rfl
@[simp] theorem putPort_cfg (s : State) (p : Port) : (s.putPort p).cfg = s.cfg := rfl
@[simp] theorem putPort_rxq (s : State) (p : Port) : (s.putPort p).rxq = s.rxq := rfl
@[simp] theorem putPort_txDone (s : State) (p : Port) : (s.putPort p).txDone = s.txDone := rfl
@[simp] theorem putPort_rxOverflow (s : State) (p : Port) : (s.putPort p).rxOverflow = s.rxOverflow := rfl
@[simp] theorem putPort_linkOwner (s : State) (p : Port) : (s.putPort p).linkOwner = s.linkOwner := rfl
@[simp] theorem putPort_txbuf (s : State) (p : Port) : (s.putPort p).txbuf = s.txbuf := rfl
@[simp] theorem putPort_txlen (s : State) (p : Port) : (s.putPort p).txlen = s.txlen := rfl
@[simp] theorem putPort_rxbuf (s : State) (p : Port) : (s.putPort p).rxbuf = s.rxbuf := rfl
@[simp] theorem putPort_rxcnt (s : State) (p : Port) : (s.putPort p).rxcnt = s.rxcnt := rfl
@[simp] theorem putPort_ack (s : State) (p : Port) : (s.putPort p).ack = s.ack := rfl
@[simp] theorem putPort_sessionOwner (s : State) (p : Port) : (s.putPort p).sessionOwner = s.sessionOwner := rfl
@[simp] theorem putPort_fdeState (s : State) (p : Port) : (s.putPort p).fdeState = s.fdeState := rfl
@[simp] theorem putPort_sinkOpen (s : State) (p : Port) : (s.putPort p).sinkOpen = s.sinkOpen := rfl
@[simp] theorem putPort_dlType (s : State) (p : Port) : (s.putPort p).dlType = s.dlType := rfl
@[simp] theorem putPort_dlCounter (s : State) (p : Port) : (s.putPort p).dlCounter = s.dlCounter := rfl
@[simp] theorem putPort_dlSize (s : State) (p : Port) : (s.putPort p).dlSize = s.dlSize := rfl
@[simp] theorem putPort_dlOffset (s : State) (p : Port) : (s.putPort p).dlOffset = s.dlOffset := rfl
@[simp] theorem putPort_dlBlockLen (s : State) (p : Port) : (s.putPort p).dlBlockLen = s.dlBlockLen := rfl
@[simp] theorem putPort_dlPdl (s : State) (p : Port) : (s.putPort p).dlPdl = s.dlPdl := rfl
@[simp] theorem putPort_dlFill (s : State) (p : Port) : (s.putPort p).dlFill = s.dlFill := rfl
@[simp] theorem putPort_dlRetry (s : State) (p : Port) : (s.putPort p).dlRetry = s.dlRetry := rfl
@[simp] theorem putPort_dlPolls (s : State) (p : Port) : (s.putPort p).dlPolls = s.dlPolls := rfl
@[simp] theorem putPort_npk (s : State) (p : Port) : (s.putPort p).npk = s.npk := rfl
@[simp] theorem putPort_idx (s : State) (p : Port) : (s.putPort p).idx = s.idx := rfl
@[simp] theorem putPort_rem (s : State) (p : Port) : (s.putPort p).rem = s.rem := rfl
@[simp] theorem putPort_seq (s : State) (p : Port) : (s.putPort p).seq = s.seq := rfl
@[simp] theorem putPort_tries (s : State) (p : Port) : (s.putPort p).tries = s.tries := rfl
@[simp] theorem putPort_polls (s : State) (p : Port) : (s.putPort p).polls = s.polls := rfl
@[simp] theorem putPort_pktbuf (s : State) (p : Port) : (s.putPort p).pktbuf = s.pktbuf := rfl
@[simp] theorem putPort_holeMap (s : State) (p : Port) : (s.putPort p).holeMap = s.holeMap := rfl
@[simp] theorem putPort_now (s : State) (p : Port) : (s.putPort p).now = s.now := rfl
@[simp] theorem putPort_csr (s : State) (p : Port) : (s.putPort p).csr = s.csr := rfl
@[simp] theorem putPort_sink (s : State) (p : Port) : (s.putPort p).sink = s.sink := rfl
@[simp] theorem putPort_wireOut (s : State) (p : Port) : (s.putPort p).wireOut = s.wireOut := rfl
@[simp] theorem putPort_actor (s : State) (p : Port) : (s.putPort p).actor = s.actor := rfl
@[simp] theorem putPort_schedule (s : State) (p : Port) : (s.putPort p).schedule = s.schedule := rfl
@[simp] theorem putPort_sinkAnswers (s : State) (p : Port) : (s.putPort p).sinkAnswers = s.sinkAnswers := rfl
@[simp] theorem putPort_draws (s : State) (p : Port) : (s.putPort p).draws = s.draws := rfl
@[simp] theorem putPort_protocolFaulted (s : State) (p : Port) : (s.putPort p).protocolFaulted = s.protocolFaulted := rfl
@[simp] theorem putPort_sessionLatched (s : State) (p : Port) : (s.putPort p).sessionLatched = s.sessionLatched := rfl
@[simp] theorem putPort_indexSet (s : State) (p : Port) : (s.putPort p).indexSet = s.indexSet := rfl
@[simp] theorem putPort_collected (s : State) (p : Port) : (s.putPort p).collected = s.collected := rfl

/-! ## `Port.enter` -/

@[simp] theorem port_enter_desc (p : Port) (ph : Phase) : (p.enter ph).desc = p.desc := rfl
@[simp] theorem port_enter_descLen (p : Port) (ph : Phase) : (p.enter ph).descLen = p.descLen := rfl
@[simp] theorem port_enter_rsp (p : Port) (ph : Phase) : (p.enter ph).rsp = p.rsp := rfl
@[simp] theorem port_enter_t0 (p : Port) (ph : Phase) : (p.enter ph).t0 = p.t0 := rfl
@[simp] theorem port_enter_bound (p : Port) (ph : Phase) : (p.enter ph).bound = p.bound := rfl
@[simp] theorem port_enter_waiting (p : Port) (ph : Phase) : (p.enter ph).waiting = false := rfl
@[simp] theorem port_enter_ph (p : Port) (ph : Phase) : (p.enter ph).ph = ph := rfl
@[simp] theorem port_enter_pos (p : Port) (ph : Phase) : (p.enter ph).pos = p.pos := rfl
@[simp] theorem port_enter_k (p : Port) (ph : Phase) : (p.enter ph).k = p.k := rfl
@[simp] theorem port_enter_ret (p : Port) (ph : Phase) : (p.enter ph).ret = p.ret := rfl

/-! ## `Port.runAt` -/

@[simp] theorem port_runAt_desc (p : Port) (pos : RunPos) : (p.runAt pos).desc = p.desc := rfl
@[simp] theorem port_runAt_descLen (p : Port) (pos : RunPos) : (p.runAt pos).descLen = p.descLen := rfl
@[simp] theorem port_runAt_rsp (p : Port) (pos : RunPos) : (p.runAt pos).rsp = p.rsp := rfl
@[simp] theorem port_runAt_t0 (p : Port) (pos : RunPos) : (p.runAt pos).t0 = p.t0 := rfl
@[simp] theorem port_runAt_bound (p : Port) (pos : RunPos) : (p.runAt pos).bound = p.bound := rfl
@[simp] theorem port_runAt_waiting (p : Port) (pos : RunPos) : (p.runAt pos).waiting = false := rfl
@[simp] theorem port_runAt_ph (p : Port) (pos : RunPos) : (p.runAt pos).ph = .run := rfl
@[simp] theorem port_runAt_pos (p : Port) (pos : RunPos) : (p.runAt pos).pos = pos := rfl
@[simp] theorem port_runAt_k (p : Port) (pos : RunPos) : (p.runAt pos).k = p.k := rfl
@[simp] theorem port_runAt_ret (p : Port) (pos : RunPos) : (p.runAt pos).ret = p.ret := rfl

/-! ## `Port.beginWait` -/

@[simp] theorem port_beginWait_desc (p : Port) (now : Nat) (bound : Word) : (p.beginWait now bound).desc = p.desc := rfl
@[simp] theorem port_beginWait_descLen (p : Port) (now : Nat) (bound : Word) : (p.beginWait now bound).descLen = p.descLen := rfl
@[simp] theorem port_beginWait_rsp (p : Port) (now : Nat) (bound : Word) : (p.beginWait now bound).rsp = p.rsp := rfl
@[simp] theorem port_beginWait_t0 (p : Port) (now : Nat) (bound : Word) : (p.beginWait now bound).t0 = now := rfl
@[simp] theorem port_beginWait_bound (p : Port) (now : Nat) (bound : Word) : (p.beginWait now bound).bound = bound.toNat := rfl
@[simp] theorem port_beginWait_waiting (p : Port) (now : Nat) (bound : Word) : (p.beginWait now bound).waiting = true := rfl
@[simp] theorem port_beginWait_ph (p : Port) (now : Nat) (bound : Word) : (p.beginWait now bound).ph = p.ph := rfl
@[simp] theorem port_beginWait_pos (p : Port) (now : Nat) (bound : Word) : (p.beginWait now bound).pos = p.pos := rfl
@[simp] theorem port_beginWait_k (p : Port) (now : Nat) (bound : Word) : (p.beginWait now bound).k = p.k := rfl
@[simp] theorem port_beginWait_ret (p : Port) (now : Nat) (bound : Word) : (p.beginWait now bound).ret = p.ret := rfl

/-! ## `Port.finish` -/

@[simp] theorem port_finish_desc (p : Port) (st : Status) (data : List Byte) : (p.finish st data).desc = p.desc := rfl
@[simp] theorem port_finish_descLen (p : Port) (st : Status) (data : List Byte) : (p.finish st data).descLen = p.descLen := rfl
@[simp] theorem port_finish_rsp (p : Port) (st : Status) (data : List Byte) : (p.finish st data).rsp = ⟨st, data⟩ := rfl
@[simp] theorem port_finish_t0 (p : Port) (st : Status) (data : List Byte) : (p.finish st data).t0 = p.t0 := rfl
@[simp] theorem port_finish_bound (p : Port) (st : Status) (data : List Byte) : (p.finish st data).bound = p.bound := rfl
@[simp] theorem port_finish_waiting (p : Port) (st : Status) (data : List Byte) : (p.finish st data).waiting = false := rfl
@[simp] theorem port_finish_ph (p : Port) (st : Status) (data : List Byte) : (p.finish st data).ph = .done := rfl
@[simp] theorem port_finish_pos (p : Port) (st : Status) (data : List Byte) : (p.finish st data).pos = .start := rfl
@[simp] theorem port_finish_k (p : Port) (st : Status) (data : List Byte) : (p.finish st data).k = p.k := rfl
@[simp] theorem port_finish_ret (p : Port) (st : Status) (data : List Byte) : (p.finish st data).ret = p.ret := rfl

/-! ## `Port.exit` -/

@[simp] theorem port_exit_desc (p : Port) (st : Status) (data : List Byte) : (p.exit st data).desc = p.desc := rfl
@[simp] theorem port_exit_descLen (p : Port) (st : Status) (data : List Byte) : (p.exit st data).descLen = p.descLen := rfl
@[simp] theorem port_exit_rsp (p : Port) (st : Status) (data : List Byte) : (p.exit st data).rsp = p.rsp := rfl
@[simp] theorem port_exit_t0 (p : Port) (st : Status) (data : List Byte) : (p.exit st data).t0 = p.t0 := rfl
@[simp] theorem port_exit_bound (p : Port) (st : Status) (data : List Byte) : (p.exit st data).bound = p.bound := rfl
@[simp] theorem port_exit_waiting (p : Port) (st : Status) (data : List Byte) : (p.exit st data).waiting = false := rfl
@[simp] theorem port_exit_ph (p : Port) (st : Status) (data : List Byte) : (p.exit st data).ph = .release := rfl
@[simp] theorem port_exit_pos (p : Port) (st : Status) (data : List Byte) : (p.exit st data).pos = p.pos := rfl
@[simp] theorem port_exit_k (p : Port) (st : Status) (data : List Byte) : (p.exit st data).k = p.k := rfl
@[simp] theorem port_exit_ret (p : Port) (st : Status) (data : List Byte) : (p.exit st data).ret = ⟨st, data⟩ := rfl

/-! ## `Port.returning` -/

@[simp] theorem port_returning_desc (p : Port) (r : Response) : (p.returning r).desc = p.desc := rfl
@[simp] theorem port_returning_descLen (p : Port) (r : Response) : (p.returning r).descLen = p.descLen := rfl
@[simp] theorem port_returning_rsp (p : Port) (r : Response) : (p.returning r).rsp = p.rsp := rfl
@[simp] theorem port_returning_t0 (p : Port) (r : Response) : (p.returning r).t0 = p.t0 := rfl
@[simp] theorem port_returning_bound (p : Port) (r : Response) : (p.returning r).bound = p.bound := rfl
@[simp] theorem port_returning_waiting (p : Port) (r : Response) : (p.returning r).waiting = false := rfl
@[simp] theorem port_returning_ph (p : Port) (r : Response) : (p.returning r).ph = .run := rfl
@[simp] theorem port_returning_pos (p : Port) (r : Response) : (p.returning r).pos = .ret := rfl
@[simp] theorem port_returning_k (p : Port) (r : Response) : (p.returning r).k = p.k := rfl
@[simp] theorem port_returning_ret (p : Port) (r : Response) : (p.returning r).ret = r := rfl

/-! ## `Port.aborting` -/

@[simp] theorem port_aborting_desc (p : Port) (st : Status) (data : List Byte) : (p.aborting st data).desc = p.desc := rfl
@[simp] theorem port_aborting_descLen (p : Port) (st : Status) (data : List Byte) : (p.aborting st data).descLen = p.descLen := rfl
@[simp] theorem port_aborting_rsp (p : Port) (st : Status) (data : List Byte) : (p.aborting st data).rsp = p.rsp := rfl
@[simp] theorem port_aborting_t0 (p : Port) (st : Status) (data : List Byte) : (p.aborting st data).t0 = p.t0 := rfl
@[simp] theorem port_aborting_bound (p : Port) (st : Status) (data : List Byte) : (p.aborting st data).bound = p.bound := rfl
@[simp] theorem port_aborting_waiting (p : Port) (st : Status) (data : List Byte) : (p.aborting st data).waiting = false := rfl
@[simp] theorem port_aborting_ph (p : Port) (st : Status) (data : List Byte) : (p.aborting st data).ph = .run := rfl
@[simp] theorem port_aborting_pos (p : Port) (st : Status) (data : List Byte) : (p.aborting st data).pos = .abort := rfl
@[simp] theorem port_aborting_k (p : Port) (st : Status) (data : List Byte) : (p.aborting st data).k = p.k := rfl
@[simp] theorem port_aborting_ret (p : Port) (st : Status) (data : List Byte) : (p.aborting st data).ret = ⟨st, data⟩ := rfl

/-! ## `sendFrame` -/

@[simp] theorem sendFrame_cfg (s : State) : (sendFrame s).cfg = s.cfg := rfl
@[simp] theorem sendFrame_rxq (s : State) : (sendFrame s).rxq = s.rxq := rfl
@[simp] theorem sendFrame_txDone (s : State) : (sendFrame s).txDone = false := rfl
@[simp] theorem sendFrame_rxOverflow (s : State) : (sendFrame s).rxOverflow = s.rxOverflow := rfl
@[simp] theorem sendFrame_linkOwner (s : State) : (sendFrame s).linkOwner = s.linkOwner := rfl
@[simp] theorem sendFrame_txbuf (s : State) : (sendFrame s).txbuf = s.txbuf := rfl
@[simp] theorem sendFrame_txlen (s : State) : (sendFrame s).txlen = s.txlen := rfl
@[simp] theorem sendFrame_rxbuf (s : State) : (sendFrame s).rxbuf = s.rxbuf := rfl
@[simp] theorem sendFrame_rxcnt (s : State) : (sendFrame s).rxcnt = s.rxcnt := rfl
@[simp] theorem sendFrame_ack (s : State) : (sendFrame s).ack = s.ack := rfl
@[simp] theorem sendFrame_sessionOwner (s : State) : (sendFrame s).sessionOwner = s.sessionOwner := rfl
@[simp] theorem sendFrame_fdeState (s : State) : (sendFrame s).fdeState = s.fdeState := rfl
@[simp] theorem sendFrame_sinkOpen (s : State) : (sendFrame s).sinkOpen = s.sinkOpen := rfl
@[simp] theorem sendFrame_dlType (s : State) : (sendFrame s).dlType = s.dlType := rfl
@[simp] theorem sendFrame_dlCounter (s : State) : (sendFrame s).dlCounter = s.dlCounter := rfl
@[simp] theorem sendFrame_dlSize (s : State) : (sendFrame s).dlSize = s.dlSize := rfl
@[simp] theorem sendFrame_dlOffset (s : State) : (sendFrame s).dlOffset = s.dlOffset := rfl
@[simp] theorem sendFrame_dlBlockLen (s : State) : (sendFrame s).dlBlockLen = s.dlBlockLen := rfl
@[simp] theorem sendFrame_dlPdl (s : State) : (sendFrame s).dlPdl = s.dlPdl := rfl
@[simp] theorem sendFrame_dlFill (s : State) : (sendFrame s).dlFill = s.dlFill := rfl
@[simp] theorem sendFrame_dlRetry (s : State) : (sendFrame s).dlRetry = s.dlRetry := rfl
@[simp] theorem sendFrame_dlPolls (s : State) : (sendFrame s).dlPolls = s.dlPolls := rfl
@[simp] theorem sendFrame_npk (s : State) : (sendFrame s).npk = s.npk := rfl
@[simp] theorem sendFrame_idx (s : State) : (sendFrame s).idx = s.idx := rfl
@[simp] theorem sendFrame_rem (s : State) : (sendFrame s).rem = s.rem := rfl
@[simp] theorem sendFrame_seq (s : State) : (sendFrame s).seq = s.seq := rfl
@[simp] theorem sendFrame_tries (s : State) : (sendFrame s).tries = s.tries := rfl
@[simp] theorem sendFrame_polls (s : State) : (sendFrame s).polls = s.polls := rfl
@[simp] theorem sendFrame_pktbuf (s : State) : (sendFrame s).pktbuf = s.pktbuf := rfl
@[simp] theorem sendFrame_holeMap (s : State) : (sendFrame s).holeMap = s.holeMap := rfl
@[simp] theorem sendFrame_now (s : State) : (sendFrame s).now = s.now := rfl
@[simp] theorem sendFrame_csr (s : State) : (sendFrame s).csr = s.csr := rfl
@[simp] theorem sendFrame_sink (s : State) : (sendFrame s).sink = s.sink := rfl
@[simp] theorem sendFrame_wireOut (s : State) : (sendFrame s).wireOut = s.wireOut ++ [s.txbuf.take s.txlen] := rfl
@[simp] theorem sendFrame_actor (s : State) : (sendFrame s).actor = s.actor := rfl
@[simp] theorem sendFrame_schedule (s : State) : (sendFrame s).schedule = s.schedule := rfl
@[simp] theorem sendFrame_sinkAnswers (s : State) : (sendFrame s).sinkAnswers = s.sinkAnswers := rfl
@[simp] theorem sendFrame_draws (s : State) : (sendFrame s).draws = s.draws := rfl
@[simp] theorem sendFrame_protocolFaulted (s : State) : (sendFrame s).protocolFaulted = s.protocolFaulted := rfl
@[simp] theorem sendFrame_sessionLatched (s : State) : (sendFrame s).sessionLatched = s.sessionLatched := rfl
@[simp] theorem sendFrame_indexSet (s : State) : (sendFrame s).indexSet = s.indexSet := rfl
@[simp] theorem sendFrame_collected (s : State) : (sendFrame s).collected = s.collected := rfl
@[simp] theorem sendFrame_ports (s : State) : (sendFrame s).ports = s.ports := rfl

/-! ## `txEvent` -/

@[simp] theorem txEvent_cfg (s : State) : (txEvent s).cfg = s.cfg := rfl
@[simp] theorem txEvent_rxq (s : State) : (txEvent s).rxq = s.rxq := rfl
@[simp] theorem txEvent_txDone (s : State) : (txEvent s).txDone = true := rfl
@[simp] theorem txEvent_rxOverflow (s : State) : (txEvent s).rxOverflow = s.rxOverflow := rfl
@[simp] theorem txEvent_linkOwner (s : State) : (txEvent s).linkOwner = s.linkOwner := rfl
@[simp] theorem txEvent_txbuf (s : State) : (txEvent s).txbuf = s.txbuf := rfl
@[simp] theorem txEvent_txlen (s : State) : (txEvent s).txlen = s.txlen := rfl
@[simp] theorem txEvent_rxbuf (s : State) : (txEvent s).rxbuf = s.rxbuf := rfl
@[simp] theorem txEvent_rxcnt (s : State) : (txEvent s).rxcnt = s.rxcnt := rfl
@[simp] theorem txEvent_ack (s : State) : (txEvent s).ack = s.ack := rfl
@[simp] theorem txEvent_sessionOwner (s : State) : (txEvent s).sessionOwner = s.sessionOwner := rfl
@[simp] theorem txEvent_fdeState (s : State) : (txEvent s).fdeState = s.fdeState := rfl
@[simp] theorem txEvent_sinkOpen (s : State) : (txEvent s).sinkOpen = s.sinkOpen := rfl
@[simp] theorem txEvent_dlType (s : State) : (txEvent s).dlType = s.dlType := rfl
@[simp] theorem txEvent_dlCounter (s : State) : (txEvent s).dlCounter = s.dlCounter := rfl
@[simp] theorem txEvent_dlSize (s : State) : (txEvent s).dlSize = s.dlSize := rfl
@[simp] theorem txEvent_dlOffset (s : State) : (txEvent s).dlOffset = s.dlOffset := rfl
@[simp] theorem txEvent_dlBlockLen (s : State) : (txEvent s).dlBlockLen = s.dlBlockLen := rfl
@[simp] theorem txEvent_dlPdl (s : State) : (txEvent s).dlPdl = s.dlPdl := rfl
@[simp] theorem txEvent_dlFill (s : State) : (txEvent s).dlFill = s.dlFill := rfl
@[simp] theorem txEvent_dlRetry (s : State) : (txEvent s).dlRetry = s.dlRetry := rfl
@[simp] theorem txEvent_dlPolls (s : State) : (txEvent s).dlPolls = s.dlPolls := rfl
@[simp] theorem txEvent_npk (s : State) : (txEvent s).npk = s.npk := rfl
@[simp] theorem txEvent_idx (s : State) : (txEvent s).idx = s.idx := rfl
@[simp] theorem txEvent_rem (s : State) : (txEvent s).rem = s.rem := rfl
@[simp] theorem txEvent_seq (s : State) : (txEvent s).seq = s.seq := rfl
@[simp] theorem txEvent_tries (s : State) : (txEvent s).tries = s.tries := rfl
@[simp] theorem txEvent_polls (s : State) : (txEvent s).polls = s.polls := rfl
@[simp] theorem txEvent_pktbuf (s : State) : (txEvent s).pktbuf = s.pktbuf := rfl
@[simp] theorem txEvent_holeMap (s : State) : (txEvent s).holeMap = s.holeMap := rfl
@[simp] theorem txEvent_now (s : State) : (txEvent s).now = s.now := rfl
@[simp] theorem txEvent_csr (s : State) : (txEvent s).csr = s.csr := rfl
@[simp] theorem txEvent_sink (s : State) : (txEvent s).sink = s.sink := rfl
@[simp] theorem txEvent_wireOut (s : State) : (txEvent s).wireOut = s.wireOut := rfl
@[simp] theorem txEvent_actor (s : State) : (txEvent s).actor = s.actor := rfl
@[simp] theorem txEvent_schedule (s : State) : (txEvent s).schedule = s.schedule := rfl
@[simp] theorem txEvent_sinkAnswers (s : State) : (txEvent s).sinkAnswers = s.sinkAnswers := rfl
@[simp] theorem txEvent_draws (s : State) : (txEvent s).draws = s.draws := rfl
@[simp] theorem txEvent_protocolFaulted (s : State) : (txEvent s).protocolFaulted = s.protocolFaulted := rfl
@[simp] theorem txEvent_sessionLatched (s : State) : (txEvent s).sessionLatched = s.sessionLatched := rfl
@[simp] theorem txEvent_indexSet (s : State) : (txEvent s).indexSet = s.indexSet := rfl
@[simp] theorem txEvent_collected (s : State) : (txEvent s).collected = s.collected := rfl
@[simp] theorem txEvent_ports (s : State) : (txEvent s).ports = s.ports := rfl

/-! ## `tick` -/

@[simp] theorem tick_cfg (s : State) : (tick s).cfg = s.cfg := rfl
@[simp] theorem tick_rxq (s : State) : (tick s).rxq = s.rxq := rfl
@[simp] theorem tick_txDone (s : State) : (tick s).txDone = s.txDone := rfl
@[simp] theorem tick_rxOverflow (s : State) : (tick s).rxOverflow = s.rxOverflow := rfl
@[simp] theorem tick_linkOwner (s : State) : (tick s).linkOwner = s.linkOwner := rfl
@[simp] theorem tick_txbuf (s : State) : (tick s).txbuf = s.txbuf := rfl
@[simp] theorem tick_txlen (s : State) : (tick s).txlen = s.txlen := rfl
@[simp] theorem tick_rxbuf (s : State) : (tick s).rxbuf = s.rxbuf := rfl
@[simp] theorem tick_rxcnt (s : State) : (tick s).rxcnt = s.rxcnt := rfl
@[simp] theorem tick_ack (s : State) : (tick s).ack = s.ack := rfl
@[simp] theorem tick_sessionOwner (s : State) : (tick s).sessionOwner = s.sessionOwner := rfl
@[simp] theorem tick_fdeState (s : State) : (tick s).fdeState = s.fdeState := rfl
@[simp] theorem tick_sinkOpen (s : State) : (tick s).sinkOpen = s.sinkOpen := rfl
@[simp] theorem tick_dlType (s : State) : (tick s).dlType = s.dlType := rfl
@[simp] theorem tick_dlCounter (s : State) : (tick s).dlCounter = s.dlCounter := rfl
@[simp] theorem tick_dlSize (s : State) : (tick s).dlSize = s.dlSize := rfl
@[simp] theorem tick_dlOffset (s : State) : (tick s).dlOffset = s.dlOffset := rfl
@[simp] theorem tick_dlBlockLen (s : State) : (tick s).dlBlockLen = s.dlBlockLen := rfl
@[simp] theorem tick_dlPdl (s : State) : (tick s).dlPdl = s.dlPdl := rfl
@[simp] theorem tick_dlFill (s : State) : (tick s).dlFill = s.dlFill := rfl
@[simp] theorem tick_dlRetry (s : State) : (tick s).dlRetry = s.dlRetry := rfl
@[simp] theorem tick_dlPolls (s : State) : (tick s).dlPolls = s.dlPolls := rfl
@[simp] theorem tick_npk (s : State) : (tick s).npk = s.npk := rfl
@[simp] theorem tick_idx (s : State) : (tick s).idx = s.idx := rfl
@[simp] theorem tick_rem (s : State) : (tick s).rem = s.rem := rfl
@[simp] theorem tick_seq (s : State) : (tick s).seq = s.seq := rfl
@[simp] theorem tick_tries (s : State) : (tick s).tries = s.tries := rfl
@[simp] theorem tick_polls (s : State) : (tick s).polls = s.polls := rfl
@[simp] theorem tick_pktbuf (s : State) : (tick s).pktbuf = s.pktbuf := rfl
@[simp] theorem tick_holeMap (s : State) : (tick s).holeMap = s.holeMap := rfl
@[simp] theorem tick_now (s : State) : (tick s).now = s.now + 1 := rfl
@[simp] theorem tick_csr (s : State) : (tick s).csr = s.csr := rfl
@[simp] theorem tick_sink (s : State) : (tick s).sink = s.sink := rfl
@[simp] theorem tick_wireOut (s : State) : (tick s).wireOut = s.wireOut := rfl
@[simp] theorem tick_actor (s : State) : (tick s).actor = s.actor := rfl
@[simp] theorem tick_schedule (s : State) : (tick s).schedule = s.schedule := rfl
@[simp] theorem tick_sinkAnswers (s : State) : (tick s).sinkAnswers = s.sinkAnswers := rfl
@[simp] theorem tick_draws (s : State) : (tick s).draws = s.draws := rfl
@[simp] theorem tick_protocolFaulted (s : State) : (tick s).protocolFaulted = s.protocolFaulted := rfl
@[simp] theorem tick_sessionLatched (s : State) : (tick s).sessionLatched = s.sessionLatched := rfl
@[simp] theorem tick_indexSet (s : State) : (tick s).indexSet = s.indexSet := rfl
@[simp] theorem tick_collected (s : State) : (tick s).collected = s.collected := rfl
@[simp] theorem tick_ports (s : State) : (tick s).ports = s.ports := rfl

/-! ## The registers of a port after `putPort` -/

theorem putPort_get_actor (s : State) (p : Port) (h : s.actor < s.ports.length) :
    (s.putPort p).ports[s.actor]? = some p := by
  simp [h]

theorem putPort_get_other (s : State) (p : Port) (c : Nat) (h : c ≠ s.actor) :
    (s.putPort p).ports[c]? = s.ports[c]? := by
  simp [Ne.symm h]

end Sys2Proof.Machine
end

