-- ==== Sys2Proof/Laws/Ops.lean ====
section
/-! SUPPORT. One lemma per shared operation that says once everything it can do. -/

namespace Sys2Proof.Machine

open Sys2Proof Sys2Proof.Config

/-- The counter of a packet, byte by byte (R99, R63). -/
theorem packetCounter_eq (g : Params) (d : List Byte) :
    packetCounter g d = (d.getD g.pktSeqOff 0).toNat + 256 * (d.getD (g.pktSeqOff + 1) 0).toNat := rfl

/-- `RX_LEVEL` shows the count when it fits 32 bits (R47). -/
theorem levelWord_of_lt {n : Nat} (h : n < 4294967296) : levelWord n = BitVec.ofNat 32 n := if_pos h

/-- A view of a written register shows its value (R48 to R51). -/
theorem shown_of_written (s : State) (v : Nat) : shown s true v = v := rfl

theorem withPort_next {s t : State} {f : Port → Result} (h : s.withPort f = .next t) :
    ∃ p, s.ports[s.actor]? = some p ∧ f p = .next t := by
  unfold State.withPort at h
  split at h
  · cases h
  · exact ⟨_, ‹_›, h⟩

theorem withPort_of_get {s : State} {p : Port} (f : Port → Result) (h : s.ports[s.actor]? = some p) :
    s.withPort f = f p := by
  simp [State.withPort, h]

/-- The wait takes the event when it holds, else the timeout when the bound has passed, else it stays (R11). -/
theorem onWait_next {p : Port} {s t : State} {ev : Option State} {tmo : State} (h : onWait p s ev tmo = .next t) :
    ev = some t ∨ (ev = none ∧ p.timedOut s.now = true ∧ t = tmo) ∨
      (ev = none ∧ p.timedOut s.now = false ∧ t = s) := by
  unfold onWait at h
  split at h
  · cases h; exact .inl rfl
  · split at h
    · cases h; exact .inr (.inl ⟨rfl, ‹_›, rfl⟩)
    · rename_i hn; cases h; exact .inr (.inr ⟨rfl, by simpa using hn, rfl⟩)

theorem onWait_event (p : Port) (s s' tmo : State) : onWait p s (some s') tmo = .next s' := rfl

theorem onWait_timeout {p : Port} {s : State} (tmo : State) (h : p.timedOut s.now = true) :
    onWait p s none tmo = .next tmo := by
  simp [onWait, h]

theorem rxPop_eq_some {s : State} {r : Byte × State} (h : rxPop s = some r) :
    ∃ b q, s.rxq = b :: q ∧ r = (b, { s with rxq := q }) := by
  unfold rxPop at h
  split at h
  · cases h
  · cases h; exact ⟨_, _, ‹_›, rfl⟩

theorem rxPop_eq_none {s : State} (h : rxPop s = none) : s.rxq = [] := by
  unfold rxPop at h
  split at h
  · assumption
  · cases h

theorem rxPop_cons {s : State} {b : Byte} {q : List Byte} (h : s.rxq = b :: q) :
    rxPop s = some (b, { s with rxq := q }) := by
  simp [rxPop, h]

theorem takeLink_eq_some {s t : State} (h : takeLink s = some t) :
    s.linkOwner = none ∧ t = { s with linkOwner := some s.actor } := by
  unfold takeLink at h
  split at h
  · cases h; exact ⟨‹_›, rfl⟩
  · cases h

theorem takeLink_eq_none {s : State} (h : takeLink s = none) : ∃ c, s.linkOwner = some c := by
  unfold takeLink at h
  split at h
  · cases h
  · exact ⟨_, ‹_›⟩

theorem takeSession_eq_some {s t : State} (h : takeSession s = some t) :
    s.sessionOwner = none ∧ t = { s with sessionOwner := some s.actor } := by
  unfold takeSession at h
  split at h
  · cases h; exact ⟨‹_›, rfl⟩
  · cases h

theorem takeSession_eq_none {s : State} (h : takeSession s = none) : ∃ c, s.sessionOwner = some c := by
  unfold takeSession at h
  split at h
  · cases h
  · exact ⟨_, ‹_›⟩

theorem takeTxDone_eq_some {s t : State} (h : takeTxDone s = some t) :
    s.txDone = true ∧ t = { s with txDone := false } := by
  unfold takeTxDone at h
  split at h
  · cases h; exact ⟨‹_›, rfl⟩
  · cases h

theorem takeTxDone_eq_none {s : State} (h : takeTxDone s = none) : s.txDone = false := by
  unfold takeTxDone at h
  split at h
  · cases h
  · rename_i hn; simpa using hn

/-- `RxPush` appends, or marks the overflow and keeps the queue (R64, R65). -/
theorem rxPush_cases (b : Byte) (s : State) :
    (s.rxq.length < s.cfg.rxqCap ∧ rxPush b s = { s with rxq := s.rxq ++ [b] }) ∨
      (s.cfg.rxqCap ≤ s.rxq.length ∧ rxPush b s = { s with rxOverflow := true }) := by
  unfold rxPush
  split
  · exact .inl ⟨‹_›, rfl⟩
  · exact .inr ⟨by omega, rfl⟩

/-- `if link_owner = c` frees the link or leaves the state alone (R217). -/
theorem freeLink_cases (s : State) :
    (s.linkOwner = some s.actor ∧ freeLink s = { s with linkOwner := none }) ∨
      (s.linkOwner ≠ some s.actor ∧ freeLink s = s) := by
  unfold freeLink
  split
  · exact .inl ⟨‹_›, rfl⟩
  · exact .inr ⟨‹_›, rfl⟩

theorem writePrefix_length (buf bs : List Byte) : (writePrefix buf bs).length = buf.length := by
  simp only [writePrefix, List.length_take, List.length_append, List.length_drop]
  omega

/-- A prefix that fits the buffer is what its first bytes are afterwards; the others stay. -/
theorem writePrefix_eq (buf bs : List Byte) (h : bs.length ≤ buf.length) :
    writePrefix buf bs = bs ++ buf.drop bs.length := by
  unfold writePrefix
  rw [List.take_of_length_le]
  simp only [List.length_append, List.length_drop]
  omega

theorem writePrefix_take (buf bs : List Byte) (h : bs.length ≤ buf.length) :
    (writePrefix buf bs).take bs.length = bs := by
  rw [writePrefix_eq buf bs h, List.take_left]

/-! ## The sink -/

/-- One draw of `SINK` changes only the two fields it draws from. -/
theorem sinkDraw_frame (s : State) :
    ∃ a d, (sinkDraw s).2 = { s with sinkAnswers := a, draws := d } := by
  unfold sinkDraw
  split
  · exact ⟨_, s.draws, rfl⟩
  · rename_i h; exact ⟨[], _, by rw [← h]⟩

theorem sinkDraw_settled {s : State} {ok : Bool} {rest : List Bool} (h : s.sinkAnswers = ok :: rest) :
    sinkDraw s = (ok, { s with sinkAnswers := rest }) := by
  simp [sinkDraw, h]

/-- `SinkWrite` changes only the sink and the two draw fields. -/
theorem sinkWrite_frame (bs : List Byte) (s : State) :
    ∃ k a d, (sinkWrite bs s).2 = { s with sink := k, sinkAnswers := a, draws := d } := by
  obtain ⟨a, d, h⟩ := sinkDraw_frame s
  unfold sinkWrite
  split <;> rename_i s' h' <;> rw [h'] at h <;> simp only at h <;> subst h
  · unfold sinkAppend
    split
    · exact ⟨s.sink, a, d, rfl⟩
    · exact ⟨_, a, d, rfl⟩
  · exact ⟨s.sink, a, d, rfl⟩

theorem sinkWriteSome_frame (bs : List Byte) (s : State) :
    ∃ k a d, (sinkWriteSome bs s).2 = { s with sink := k, sinkAnswers := a, draws := d } := by
  cases bs with
  | nil => exact ⟨s.sink, s.sinkAnswers, s.draws, rfl⟩
  | cons b rest => exact sinkWrite_frame (b :: rest) s

/-- `SinkOpen` changes only the sink and the two draw fields. -/
theorem sinkOpen_frame (f : FileId) (s : State) :
    ∃ k a d, (sinkOpen f s).2 = { s with sink := k, sinkAnswers := a, draws := d } := by
  obtain ⟨a, d, h⟩ := sinkDraw_frame s
  unfold sinkOpen
  split <;> rename_i s' h' <;> rw [h'] at h <;> simp only at h <;> subst h
  · unfold sinkOpened
    split
    · exact ⟨_, a, d, rfl⟩
    · exact ⟨_, a, d + 1, rfl⟩
  · exact ⟨s.sink, a, d, rfl⟩

/-- `SinkClose` ends the current file, clears `sink_open` and changes nothing else but the draw fields. -/
theorem sinkClose_frame (s : State) :
    ∃ a d, (sinkClose s).2 =
      { s with sink := { s.sink with cur := none }, sinkOpen := false, sinkAnswers := a, draws := d } := by
  obtain ⟨a, d, h⟩ := sinkDraw_frame s
  refine ⟨a, d, ?_⟩
  unfold sinkClose
  split
  rename_i s' h'
  rw [h'] at h
  simp only at h
  subst h
  rfl

/-! ## The files of the sink -/

theorem FileId.num_inj {f g : FileId} (h : f.num = g.num) : f = g := by
  cases f with
  | mk t c =>
    cases g with
    | mk t' c' =>
      simp only [FileId.num] at h
      have h1 := c.isLt
      have h2 := c'.isLt
      have ht : t.toNat = t'.toNat := by omega
      have hc : c.toNat = c'.toNat := by omega
      simp [BitVec.toNat_inj.mp ht, BitVec.toNat_inj.mp hc]

theorem filesPut_cons (f f' : FileId) (bs bs' : List Byte) (rest : List (FileId × List Byte)) :
    filesPut f bs ((f', bs') :: rest) =
      if f.num < f'.num then (f, bs) :: (f', bs') :: rest
      else if f' = f then (f, bs) :: rest
      else (f', bs') :: filesPut f bs rest := rfl

/-- The canonical form of the sink's files: identities strictly rising. -/
def FilesSorted (fs : List (FileId × List Byte)) : Prop := (fs.map (fun e => e.1.num)).Pairwise (· < ·)

theorem filesPut_keys (f : FileId) (bs : List Byte) (fs : List (FileId × List Byte)) :
    ∀ n ∈ (filesPut f bs fs).map (fun e => e.1.num), n = f.num ∨ n ∈ fs.map (fun e => e.1.num) := by
  induction fs with
  | nil => simp [filesPut]
  | cons e rest ih =>
    obtain ⟨f', bs'⟩ := e
    intro n hn
    rw [filesPut_cons] at hn
    split_ifs at hn with h1 h2
    · rcases List.mem_cons.mp hn with h | h
      · exact .inl h
      · exact .inr h
    · rcases List.mem_cons.mp hn with h | h
      · exact .inl h
      · exact .inr (List.mem_cons_of_mem _ h)
    · rcases List.mem_cons.mp hn with h | h
      · exact .inr (List.mem_cons.mpr (.inl h))
      · rcases ih n h with h | h
        · exact .inl h
        · exact .inr (List.mem_cons_of_mem _ h)

/-- Writing a file keeps the canonical form. -/
theorem filesPut_sorted {f : FileId} {bs : List Byte} {fs : List (FileId × List Byte)} (h : FilesSorted fs) :
    FilesSorted (filesPut f bs fs) := by
  induction fs with
  | nil => simp [filesPut, FilesSorted]
  | cons e rest ih =>
    obtain ⟨f', bs'⟩ := e
    simp only [FilesSorted, List.map_cons, List.pairwise_cons] at h ih ⊢
    rw [filesPut_cons]
    split_ifs with h1 h2
    · simp only [List.map_cons, List.pairwise_cons, List.mem_cons]
      refine ⟨?_, h⟩
      rintro n (rfl | hn)
      · exact h1
      · exact lt_trans h1 (h.1 n hn)
    · subst h2; simpa using h
    · simp only [List.map_cons, List.pairwise_cons]
      refine ⟨?_, ih h.2⟩
      intro n hn
      rcases filesPut_keys f bs rest n hn with rfl | hn
      · have : f'.num ≠ f.num := fun e => h2 (FileId.num_inj e)
        omega
      · exact h.1 n hn

/-- Reading the file just written gives what was written. -/
theorem filesGet_filesPut_self (f : FileId) (bs : List Byte) (fs : List (FileId × List Byte)) :
    filesGet f (filesPut f bs fs) = some bs := by
  induction fs with
  | nil => simp [filesPut, filesGet]
  | cons e rest ih =>
    obtain ⟨f', bs'⟩ := e
    rw [filesPut_cons]
    split_ifs with h1 h2
    · simp [filesGet]
    · simp [filesGet]
    · simp [filesGet, h2, ih]

/-- Writing one file leaves every other file alone. -/
theorem filesGet_filesPut_other {f g : FileId} (bs : List Byte) (fs : List (FileId × List Byte)) (h : g ≠ f) :
    filesGet g (filesPut f bs fs) = filesGet g fs := by
  induction fs with
  | nil => simp [filesPut, filesGet, h.symm]
  | cons e rest ih =>
    obtain ⟨f', bs'⟩ := e
    rw [filesPut_cons]
    split_ifs with h1 h2
    · simp [filesGet, h.symm]
    · subst h2; simp [filesGet, h.symm]
    · simp only [filesGet, ih]

end Sys2Proof.Machine
end

