-- ==== Sys2Proof/Laws/Converse.lean ====
section
/-! SUPPORT. What one step of a conversation can do (41_transport.md R150 to R158), said once. -/

namespace Sys2Proof.Machine

open Sys2Proof Sys2Proof.Config

/-- Every next state a conversation's step can have, with the condition it is taken under. -/
theorem converse_next {call : Call} {s t : State} {p : Port} (h : converse call s p = .next t) :
    t = s ∨
    (p.ph = .acquire ∧ s.linkOwner = none ∧
      t = { s with linkOwner := some s.actor }.putPort (p.enter .encode)) ∨
    (p.ph = .acquire ∧ s.linkOwner ≠ none ∧ p.timedOut s.now = true ∧
      t = s.putPort (p.returning ⟨.linkBusy, []⟩)) ∨
    (p.ph = .encode ∧ t = converseEncode call s p) ∨
    (p.ph = .transmit ∧ p.waiting = false ∧ t = converseSend s p) ∨
    (p.ph = .transmit ∧ p.waiting = true ∧ s.txDone = true ∧
      t = afterTxDone call { s with txDone := false } p) ∨
    (p.ph = .transmit ∧ p.waiting = true ∧ s.txDone = false ∧ p.timedOut s.now = true ∧
      t = s.putPort (p.exit .transportTimeout [])) ∨
    (p.ph = .receive ∧ call.kind = .tc ∧ ∃ b q, s.rxq = b :: q ∧ t = ackByte b { s with rxq := q } p) ∨
    (p.ph = .receive ∧ call.kind = .tm ∧ ∃ b q, s.rxq = b :: q ∧
      t = replyByte call.req b { s with rxq := q } p) ∨
    (p.ph = .receive ∧ call.kind ≠ .tcnr ∧ s.rxq = [] ∧ p.timedOut s.now = true ∧
      t = s.putPort (p.exit .transportTimeout [])) ∨
    (p.ph = .release ∧ t = converseRelease call s p) := by
  unfold converse at h
  split at h
  case h_1 hp =>
    rcases onWait_next h with h | ⟨h1, h2, h3⟩ | ⟨_, _, h3⟩
    · obtain ⟨s', h1, h2⟩ := Option.map_eq_some_iff.mp h
      obtain ⟨h3, rfl⟩ := takeLink_eq_some h1
      simp [hp, h3, ← h2]
    · obtain ⟨c, hc⟩ := takeLink_eq_none (Option.map_eq_none_iff.mp h1)
      simp [hp, hc, h2, h3]
    · exact .inl h3
  case h_2 hp => cases h; simp [hp]
  case h_3 hp =>
    split at h
    case isTrue hw =>
      unfold converseTxDone at h
      rcases onWait_next h with h | ⟨h1, h2, h3⟩ | ⟨_, _, h3⟩
      · obtain ⟨s', h1, h2⟩ := Option.map_eq_some_iff.mp h
        obtain ⟨h3, rfl⟩ := takeTxDone_eq_some h1
        simp [hp, hw, h3, ← h2]
      · have h4 := takeTxDone_eq_none (Option.map_eq_none_iff.mp h1)
        simp [hp, hw, h2, h3, h4]
      · exact .inl h3
    case isFalse hw => cases h; simp [hp, hw]
  case h_4 hp =>
    split at h
    case h_1 hk =>
      unfold receiveAck at h
      rcases onWait_next h with h | ⟨h1, h2, h3⟩ | ⟨_, _, h3⟩
      · obtain ⟨r, h1, h2⟩ := Option.map_eq_some_iff.mp h
        obtain ⟨b, q, h3, rfl⟩ := rxPop_eq_some h1
        simp [hp, hk, h3, ← h2]
      · have h4 := rxPop_eq_none (Option.map_eq_none_iff.mp h1)
        simp [hp, hk, h2, h3, h4]
      · exact .inl h3
    case h_2 hk =>
      unfold receiveReply at h
      rcases onWait_next h with h | ⟨h1, h2, h3⟩ | ⟨_, _, h3⟩
      · obtain ⟨r, h1, h2⟩ := Option.map_eq_some_iff.mp h
        obtain ⟨b, q, h3, rfl⟩ := rxPop_eq_some h1
        simp [hp, hk, h3, ← h2]
      · have h4 := rxPop_eq_none (Option.map_eq_none_iff.mp h1)
        simp [hp, hk, h2, h3, h4]
      · exact .inl h3
    case h_3 => cases h; exact .inl rfl
  case h_5 hp => cases h; simp [hp]
  all_goals cases h; exact .inl rfl

/-- Writing back the acting port's own registers changes nothing. -/
theorem set_self {s : State} {p : Port} (hp : s.ports[s.actor]? = some p) : s.ports.set s.actor p = s.ports := by
  obtain ⟨h, h2⟩ := List.getElem?_eq_some_iff.mp hp
  rw [← h2]; exact List.set_getElem_self h

/-- A conversation's step leaves the session, the download's registers, the sink, the control registers, the clock and
every other port alone (R150, 10_state.md R24). -/
theorem converse_frame {call : Call} {s t : State} {p : Port} (hp : s.ports[s.actor]? = some p)
    (h : converse call s p = .next t) :
    ∃ rxq txDone link txbuf txlen rxbuf rxcnt ack wire p',
      t = { s with rxq := rxq, txDone := txDone, linkOwner := link, txbuf := txbuf, txlen := txlen, rxbuf := rxbuf,
                   rxcnt := rxcnt, ack := ack, wireOut := wire, ports := s.ports.set s.actor p' } ∧
      p'.desc = p.desc ∧ p'.descLen = p.descLen ∧ (p'.ph = p.ph ∨ p'.ph ≠ .run ∨ p'.pos = .ret) := by
  rcases converse_next h with rfl | ⟨hph, hl, rfl⟩ | ⟨hph, hl, ht, rfl⟩ | ⟨hph, rfl⟩ | ⟨hph, hw, rfl⟩ |
    ⟨hph, hw, hd, rfl⟩ | ⟨hph, hw, hd, ht, rfl⟩ | ⟨hph, hk, b, q, hq, rfl⟩ | ⟨hph, hk, b, q, hq, rfl⟩ |
    ⟨hph, hk, hq, ht, rfl⟩ | ⟨hph, rfl⟩
  · exact ⟨_, _, _, _, _, _, _, _, _, p, by rw [set_self hp], rfl, rfl, .inl rfl⟩
  · exact ⟨_, _, _, _, _, _, _, _, _, _, rfl, rfl, rfl, .inr (.inl (by simp))⟩
  · exact ⟨_, _, _, _, _, _, _, _, _, _, rfl, rfl, rfl, .inr (.inr rfl)⟩
  · unfold converseEncode
    split <;> exact ⟨_, _, _, _, _, _, _, _, _, _, rfl, rfl, rfl, .inr (.inl (by simp))⟩
  · exact ⟨_, _, _, _, _, _, _, _, _, _, rfl, rfl, rfl, .inl rfl⟩
  · unfold afterTxDone
    split <;> exact ⟨_, _, _, _, _, _, _, _, _, _, rfl, rfl, rfl, .inr (.inl (by simp))⟩
  · exact ⟨_, _, _, _, _, _, _, _, _, _, rfl, rfl, rfl, .inr (.inl (by simp))⟩
  · unfold ackByte
    dsimp only
    split <;> exact ⟨_, _, _, _, _, _, _, _, _, _, rfl, rfl, rfl, .inr (.inl (by simp [hph]))⟩
  · unfold replyByte
    dsimp only
    split_ifs <;> exact ⟨_, _, _, _, _, _, _, _, _, _, rfl, rfl, rfl, .inr (.inl (by simp [hph]))⟩
  · exact ⟨_, _, _, _, _, _, _, _, _, _, rfl, rfl, rfl, .inr (.inl (by simp))⟩
  · unfold converseRelease
    split <;> exact ⟨_, _, _, _, _, _, _, _, _, _, rfl, rfl, rfl, .inr (.inr rfl)⟩

end Sys2Proof.Machine
end

