-- ==== Sys2Proof/Laws/Exec.lean ====
section
/-! SUPPORT. What one step of each operation, of a port and of the machine can do, said once. -/

namespace Sys2Proof.Machine

open Sys2Proof Sys2Proof.Config

/-- An operation that completes in one step does its body at its start and nothing elsewhere. -/
theorem oneStep_next {s t : State} {body : Port → State} (h : oneStep s body = .next t) :
    ∃ p, s.ports[s.actor]? = some p ∧ ((p.ph = .run ∧ p.pos = .start ∧ t = body p) ∨ t = s) := by
  obtain ⟨p, hp, h⟩ := withPort_next h
  refine ⟨p, hp, ?_⟩
  split at h
  · rename_i hc; cases h; exact .inl ⟨hc.1, hc.2, rfl⟩
  · cases h; exact .inr rfl

/-- At its start, a one-step operation answers its body. -/
theorem oneStep_start {s : State} {p : Port} (body : Port → State) (hp : s.ports[s.actor]? = some p)
    (h1 : p.ph = .run) (h2 : p.pos = .start) : oneStep s body = .next (body p) := by
  simp [oneStep, withPort_of_get _ hp, h1, h2]

/-- Every next state a transport operation's step can have. -/
theorem converseOperation_next {i : Instr} {call : Call} {s t : State} (h : converseOperation i call s = .next t) :
    ∃ p, s.ports[s.actor]? = some p ∧
      (t = s ∨
       (p.ph = .run ∧ p.pos = .start ∧ i.operandsLegal s.cfg = true ∧ t = beginConverse s p) ∨
       (p.ph = .run ∧ p.pos = .start ∧ i.operandsLegal s.cfg = false ∧ t = raiseError s p .badDescriptor) ∨
       (p.ph = .run ∧ p.pos = .ret ∧ t = respond s p p.ret.status (responseData call.kind p.ret)) ∨
       (p.ph ≠ .run ∧ converse call s p = .next t)) := by
  obtain ⟨p, hp, h⟩ := withPort_next h
  refine ⟨p, hp, ?_⟩
  split at h
  case h_1 hr =>
    split at h
    case h_1 hs =>
      split at h
      case isTrue hl => cases h; simp [hr, hs, hl]
      case isFalse hl => cases h; simp [hr, hs, hl]
    case h_2 hs => cases h; simp [hr, hs]
    case h_3 => cases h; exact .inl rfl
  case h_2 hr => exact .inr (.inr (.inr (.inr ⟨fun e => hr e, h⟩)))

/-- Every next state a download's step outside a conversation can have. -/
theorem dlRun_next {type counter : Byte} {size : Word} {blen : Half} {s t : State} {p : Port}
    (h : dlRun type counter size blen s p = .next t) :
    t = s ∨
    (p.pos = .start ∧ (Instr.dl type counter size blen).operandsLegal s.cfg = true ∧ t = dlStart s p) ∨
    (p.pos = .start ∧ (Instr.dl type counter size blen).operandsLegal s.cfg = false ∧
      t = raiseError s p .badDescriptor) ∨
    (p.pos = .session ∧ s.sessionOwner = none ∧
      t = { s with sessionOwner := some s.actor }.putPort (p.runAt .create)) ∨
    (p.pos = .session ∧ s.sessionOwner ≠ none ∧ p.timedOut s.now = true ∧ t = raiseError s p .sessionBusy) ∨
    (p.pos = .create ∧ t = dlCreate type counter size blen s p) ∨
    (p.pos = .opening ∧ t = dlOpen type counter s p) ∨
    (p.pos = .request ∧ t = dlRequest s p) ∨
    (p.pos = .poll ∧ t = dlPoll s p) ∨
    (p.pos = .burst ∧ t = dlBurst s p) ∨
    (p.pos = .ret ∧ s.fdeState = .blockRequested ∧ t = dlRequested s p) ∨
    (p.pos = .ret ∧ s.fdeState = .blockReady ∧ t = dlPolled s p) ∨
    (p.pos = .ret ∧ s.fdeState = .burstInProgress ∧ t = dlBurstStarted s p) ∨
    (p.pos = .loop ∧ t = dlLoop s p) ∨
    (p.pos = .attempt ∧ t = dlAttempt s p) ∨
    (p.pos = .packet ∧ ∃ b q, s.rxq = b :: q ∧ t = packetByte b { s with rxq := q } p) ∨
    (p.pos = .packet ∧ s.rxq = [] ∧ p.timedOut s.now = true ∧ t = s.putPort (p.runAt .attempt)) ∨
    (p.pos = .check ∧ t = dlCheck s p) ∨
    (p.pos = .deliver ∧ t = dlDeliver s p) ∨
    (p.pos = .blockEnd ∧ t = dlBlockEnd s p) ∨
    (p.pos = .close ∧ t = dlClose s p) ∨
    (p.pos = .abort ∧ t = dlAborted s p) := by
  unfold dlRun at h
  split at h
  case h_1 hp =>
    split at h
    case isTrue hl => cases h; simp [hp, hl]
    case isFalse hl => cases h; simp [hp, hl]
  case h_2 hp =>
    unfold dlSession at h
    rcases onWait_next h with h | ⟨h1, h2, h3⟩ | ⟨_, _, h3⟩
    · obtain ⟨s', h1, h2⟩ := Option.map_eq_some_iff.mp h
      obtain ⟨h3, rfl⟩ := takeSession_eq_some h1
      simp [hp, h3, ← h2]
    · obtain ⟨c, hc⟩ := takeSession_eq_none (Option.map_eq_none_iff.mp h1)
      simp [hp, hc, h2, h3]
    · exact .inl h3
  case h_8 hp =>
    unfold dlReturned at h
    split at h
    case h_1 hf => cases h; simp [hp, hf]
    case h_2 hf => cases h; simp [hp, hf]
    case h_3 hf => cases h; simp [hp, hf]
    case h_4 => cases h; exact .inl rfl
    case h_5 => cases h; exact .inl rfl
  case h_11 hp =>
    unfold dlPacket at h
    rcases onWait_next h with h | ⟨h1, h2, h3⟩ | ⟨_, _, h3⟩
    · obtain ⟨r, h1, h2⟩ := Option.map_eq_some_iff.mp h
      obtain ⟨b, q, h3, rfl⟩ := rxPop_eq_some h1
      simp [hp, h3, ← h2]
    · have h4 := rxPop_eq_none (Option.map_eq_none_iff.mp h1)
      simp [hp, h2, h3, h4]
    · exact .inl h3
  all_goals
    rename_i hp
    cases h
    simp [hp]

/-- Every next state a download's step can have. -/
theorem execDl_next {type counter : Byte} {size : Word} {blen : Half} {s t : State}
    (h : execDl type counter size blen s = .next t) :
    ∃ p, s.ports[s.actor]? = some p ∧
      (t = s ∨ (p.ph = .run ∧ dlRun type counter size blen s p = .next t) ∨
        (p.ph ≠ .run ∧ ∃ call, dlCall s = some call ∧ converse call s p = .next t)) := by
  obtain ⟨p, hp, h⟩ := withPort_next h
  refine ⟨p, hp, ?_⟩
  split at h
  case h_1 hr => exact .inr (.inl ⟨hr, h⟩)
  case h_2 hr =>
    split at h
    case h_1 call hc => exact .inr (.inr ⟨fun e => hr e, call, hc, h⟩)
    case h_2 => cases h; exact .inl rfl

/-- What a download's step outside a conversation leaves alone: the transport's registers, the flags of the events, the
control registers, the clock and the wire. -/
structure DownloadFrame (s t : State) : Prop where
  cfg : t.cfg = s.cfg
  txDone : t.txDone = s.txDone
  rxOverflow : t.rxOverflow = s.rxOverflow
  txbuf : t.txbuf = s.txbuf
  txlen : t.txlen = s.txlen
  rxbuf : t.rxbuf = s.rxbuf
  rxcnt : t.rxcnt = s.rxcnt
  ack : t.ack = s.ack
  holeMap : t.holeMap = s.holeMap
  now : t.now = s.now
  csr : t.csr = s.csr
  wireOut : t.wireOut = s.wireOut
  actor : t.actor = s.actor
  schedule : t.schedule = s.schedule
  collected : t.collected = s.collected

theorem DownloadFrame.refl (s : State) : DownloadFrame s s :=
  ⟨rfl, rfl, rfl, rfl, rfl, rfl, rfl, rfl, rfl, rfl, rfl, rfl, rfl, rfl, rfl⟩

/-- The frame of a download's step outside a conversation; a port leaves `start` only with legal operands or by its
response (R114 (5)). -/
theorem dlRun_frame {type counter : Byte} {size : Word} {blen : Half} {s t : State} {p : Port} (hp : s.ports[s.actor]? = some p)
    (h : dlRun type counter size blen s p = .next t) :
    ∃ p', t.ports = s.ports.set s.actor p' ∧ DownloadFrame s t ∧ p'.desc = p.desc ∧ p'.descLen = p.descLen ∧
      (p.pos = .start → p' = p ∨ (Instr.dl type counter size blen).operandsLegal s.cfg = true ∨ p'.ph = .done) := by
  rcases dlRun_next h with rfl | ⟨hpos, hl, rfl⟩ | ⟨hpos, _, rfl⟩ | ⟨hpos, hn, rfl⟩ | ⟨hpos, hn, _, rfl⟩ | ⟨hpos, rfl⟩ | ⟨hpos, rfl⟩ |
    ⟨hpos, rfl⟩ | ⟨hpos, rfl⟩ | ⟨hpos, rfl⟩ | ⟨hpos, hf, rfl⟩ | ⟨hpos, hf, rfl⟩ | ⟨hpos, hf, rfl⟩ | ⟨hpos, rfl⟩ | ⟨hpos, rfl⟩ |
    ⟨hpos, b, q, hq, rfl⟩ | ⟨hpos, _, _, rfl⟩ | ⟨hpos, rfl⟩ | ⟨hpos, rfl⟩ | ⟨hpos, rfl⟩ | ⟨hpos, rfl⟩ | ⟨hpos, rfl⟩
  · exact ⟨p, (set_self hp).symm, .refl _, rfl, rfl, fun _ => .inl rfl⟩
  · exact ⟨_, rfl, ⟨rfl, rfl, rfl, rfl, rfl, rfl, rfl, rfl, rfl, rfl, rfl, rfl, rfl, rfl, rfl⟩, rfl, rfl, fun _ => .inr (.inl hl)⟩
  · exact ⟨_, rfl, ⟨rfl, rfl, rfl, rfl, rfl, rfl, rfl, rfl, rfl, rfl, rfl, rfl, rfl, rfl, rfl⟩, rfl, rfl, fun _ => .inr (.inr rfl)⟩
  · exact ⟨_, rfl, ⟨rfl, rfl, rfl, rfl, rfl, rfl, rfl, rfl, rfl, rfl, rfl, rfl, rfl, rfl, rfl⟩, rfl, rfl, by simp [hpos]⟩
  · exact ⟨_, rfl, ⟨rfl, rfl, rfl, rfl, rfl, rfl, rfl, rfl, rfl, rfl, rfl, rfl, rfl, rfl, rfl⟩, rfl, rfl, by simp [hpos]⟩
  · unfold dlCreate; dsimp only; split <;> exact ⟨_, rfl, ⟨rfl, rfl, rfl, rfl, rfl, rfl, rfl, rfl, rfl, rfl, rfl, rfl, rfl, rfl, rfl⟩, rfl, rfl, by simp [hpos]⟩
  · obtain ⟨k, a, d, hk⟩ := sinkOpen_frame ⟨type, counter⟩ s
    unfold dlOpen
    split <;> rename_i s' h' <;> rw [h'] at hk <;> simp only at hk <;> subst hk <;> exact ⟨_, rfl, ⟨rfl, rfl, rfl, rfl, rfl, rfl, rfl, rfl, rfl, rfl, rfl, rfl, rfl, rfl, rfl⟩, rfl, rfl, by simp [hpos]⟩
  · exact ⟨_, rfl, ⟨rfl, rfl, rfl, rfl, rfl, rfl, rfl, rfl, rfl, rfl, rfl, rfl, rfl, rfl, rfl⟩, rfl, rfl, by simp [hpos]⟩
  · unfold dlPoll dlAbort; split_ifs <;> exact ⟨_, rfl, ⟨rfl, rfl, rfl, rfl, rfl, rfl, rfl, rfl, rfl, rfl, rfl, rfl, rfl, rfl, rfl⟩, rfl, rfl, by simp [hpos]⟩
  · exact ⟨_, rfl, ⟨rfl, rfl, rfl, rfl, rfl, rfl, rfl, rfl, rfl, rfl, rfl, rfl, rfl, rfl, rfl⟩, rfl, rfl, by simp [hpos]⟩
  · unfold dlRequested dlAbort; split_ifs <;> exact ⟨_, rfl, ⟨rfl, rfl, rfl, rfl, rfl, rfl, rfl, rfl, rfl, rfl, rfl, rfl, rfl, rfl, rfl⟩, rfl, rfl, by simp [hpos]⟩
  · unfold dlPolled dlAbort
    split_ifs
    · exact ⟨_, rfl, ⟨rfl, rfl, rfl, rfl, rfl, rfl, rfl, rfl, rfl, rfl, rfl, rfl, rfl, rfl, rfl⟩, rfl, rfl, by simp [hpos]⟩
    · split <;> exact ⟨_, rfl, ⟨rfl, rfl, rfl, rfl, rfl, rfl, rfl, rfl, rfl, rfl, rfl, rfl, rfl, rfl, rfl⟩, rfl, rfl, by simp [hpos]⟩
    · exact ⟨_, rfl, ⟨rfl, rfl, rfl, rfl, rfl, rfl, rfl, rfl, rfl, rfl, rfl, rfl, rfl, rfl, rfl⟩, rfl, rfl, by simp [hpos]⟩
  · unfold dlBurstStarted dlAbort; split_ifs <;> exact ⟨_, rfl, ⟨rfl, rfl, rfl, rfl, rfl, rfl, rfl, rfl, rfl, rfl, rfl, rfl, rfl, rfl, rfl⟩, rfl, rfl, by simp [hpos]⟩
  · unfold dlLoop; split_ifs <;> exact ⟨_, rfl, ⟨rfl, rfl, rfl, rfl, rfl, rfl, rfl, rfl, rfl, rfl, rfl, rfl, rfl, rfl, rfl⟩, rfl, rfl, by simp [hpos]⟩
  · unfold dlAttempt dlAbort; split_ifs <;> exact ⟨_, rfl, ⟨rfl, rfl, rfl, rfl, rfl, rfl, rfl, rfl, rfl, rfl, rfl, rfl, rfl, rfl, rfl⟩, rfl, rfl, by simp [hpos]⟩
  · unfold packetByte; dsimp only; split_ifs <;> exact ⟨_, rfl, ⟨rfl, rfl, rfl, rfl, rfl, rfl, rfl, rfl, rfl, rfl, rfl, rfl, rfl, rfl, rfl⟩, rfl, rfl, by simp [hpos]⟩
  · exact ⟨_, rfl, ⟨rfl, rfl, rfl, rfl, rfl, rfl, rfl, rfl, rfl, rfl, rfl, rfl, rfl, rfl, rfl⟩, rfl, rfl, by simp [hpos]⟩
  · unfold dlCheck dlAbort; dsimp only; split_ifs <;> exact ⟨_, rfl, ⟨rfl, rfl, rfl, rfl, rfl, rfl, rfl, rfl, rfl, rfl, rfl, rfl, rfl, rfl, rfl⟩, rfl, rfl, by simp [hpos]⟩
  · unfold dlDeliver dlAbort
    dsimp only
    split
    · obtain ⟨k, a, d, hk⟩ := sinkWriteSome_frame (List.replicate (blockShare s) s.dlFill) s
      split <;> rename_i s' h' <;> rw [h'] at hk <;> simp only at hk <;> subst hk <;> exact ⟨_, rfl, ⟨rfl, rfl, rfl, rfl, rfl, rfl, rfl, rfl, rfl, rfl, rfl, rfl, rfl, rfl, rfl⟩, rfl, rfl, by simp [hpos]⟩
    · obtain ⟨k, a, d, hk⟩ := sinkWriteSome_frame (packetData s.pktbuf (blockShare s)) s
      split <;> rename_i s' h' <;> rw [h'] at hk <;> simp only at hk <;> subst hk <;> exact ⟨_, rfl, ⟨rfl, rfl, rfl, rfl, rfl, rfl, rfl, rfl, rfl, rfl, rfl, rfl, rfl, rfl, rfl⟩, rfl, rfl, by simp [hpos]⟩
  · unfold dlBlockEnd
    rcases freeLink_cases s with ⟨hl, h⟩ | ⟨hl, h⟩ <;> rw [h] <;> exact ⟨_, rfl, ⟨rfl, rfl, rfl, rfl, rfl, rfl, rfl, rfl, rfl, rfl, rfl, rfl, rfl, rfl, rfl⟩, rfl, rfl, by simp [hpos]⟩
  · obtain ⟨a, d, hk⟩ := sinkClose_frame s
    unfold dlClose
    split <;> rename_i s' h' <;> rw [h'] at hk <;> simp only at hk <;> subst hk <;> exact ⟨_, rfl, ⟨rfl, rfl, rfl, rfl, rfl, rfl, rfl, rfl, rfl, rfl, rfl, rfl, rfl, rfl, rfl⟩, rfl, rfl, by simp [hpos]⟩
  · unfold dlAborted
    dsimp only
    obtain ⟨lo, hfl⟩ : ∃ lo, freeLink s = { s with linkOwner := lo } := by
      rcases freeLink_cases s with ⟨hl, h⟩ | ⟨hl, h⟩
      · exact ⟨_, h⟩
      · exact ⟨s.linkOwner, h⟩
    rw [hfl]
    split
    · obtain ⟨a, d, hk⟩ := sinkClose_frame { s with linkOwner := lo }
      rw [hk]
      exact ⟨_, rfl, ⟨rfl, rfl, rfl, rfl, rfl, rfl, rfl, rfl, rfl, rfl, rfl, rfl, rfl, rfl, rfl⟩, rfl, rfl, by simp [hpos]⟩
    · exact ⟨_, rfl, ⟨rfl, rfl, rfl, rfl, rfl, rfl, rfl, rfl, rfl, rfl, rfl, rfl, rfl, rfl, rfl⟩, rfl, rfl, by simp [hpos]⟩

/-- The frame of an operation that completes in one step: control registers, the overflow flag and the draw counter apart, only the
acting port changes, by its response. -/
theorem oneStep_frame {s t : State} {p : Port} {body : Port → State} (hp : s.ports[s.actor]? = some p)
    (hb : ∃ st data csr ov d, body p = ({ s with csr := csr, rxOverflow := ov, draws := d } : State).putPort (p.finish st data))
    (h : oneStep s body = .next t) :
    ∃ csr ov d p', t = { s with csr := csr, rxOverflow := ov, draws := d, ports := s.ports.set s.actor p' } ∧ p'.desc = p.desc ∧ p'.descLen = p.descLen ∧
      (p' = p ∨ (p.ph = .run ∧ p.pos = .start ∧ p'.ph = .done)) := by
  obtain ⟨q, hq, h⟩ := oneStep_next h
  rw [hp] at hq; cases hq
  rcases h with ⟨h1, h2, rfl⟩ | rfl
  · obtain ⟨st, data, csr, ov, d, h⟩ := hb
    rw [h]
    exact ⟨csr, ov, d, _, rfl, rfl, rfl, .inr ⟨h1, h2, rfl⟩⟩
  · exact ⟨_, _, _, p, by rw [set_self hp], rfl, rfl, .inl rfl⟩

/-- The frame of a transport operation: no register of the download, no control register, no other port (R171). -/
theorem converseOperation_frame {i : Instr} {call : Call} {s t : State} {p : Port} (hp : s.ports[s.actor]? = some p)
    (h : converseOperation i call s = .next t) :
    ∃ rxq txDone link txbuf txlen rxbuf rxcnt ack wire p',
      t = { s with rxq := rxq, txDone := txDone, linkOwner := link, txbuf := txbuf, txlen := txlen, rxbuf := rxbuf,
                   rxcnt := rxcnt, ack := ack, wireOut := wire, ports := s.ports.set s.actor p' } ∧
      p'.desc = p.desc ∧ p'.descLen = p.descLen ∧
      (p' = p ∨ i.operandsLegal s.cfg = true ∨ ¬(p.ph = .run ∧ p.pos = .start) ∨ p'.ph = .done) := by
  obtain ⟨q, hq, h⟩ := converseOperation_next h
  rw [hp] at hq; cases hq
  rcases h with rfl | ⟨h1, h2, hl, rfl⟩ | ⟨h1, h2, _, rfl⟩ | ⟨h1, h2, rfl⟩ | ⟨hr, h⟩
  · exact ⟨_, _, _, _, _, _, _, _, _, p, by rw [set_self hp], rfl, rfl, .inl rfl⟩
  · exact ⟨_, _, _, _, _, _, _, _, _, _, rfl, rfl, rfl, .inr (.inl hl)⟩
  · exact ⟨_, _, _, _, _, _, _, _, _, _, rfl, rfl, rfl, .inr (.inr (.inr rfl))⟩
  · exact ⟨_, _, _, _, _, _, _, _, _, _, rfl, rfl, rfl, .inr (.inr (.inr rfl))⟩
  · obtain ⟨a1, a2, a3, a4, a5, a6, a7, a8, a9, p', h1, h2, h3, _⟩ := converse_frame hp h
    exact ⟨a1, a2, a3, a4, a5, a6, a7, a8, a9, p', h1, h2, h3, .inr (.inr (.inl (by simp [hr])))⟩

/-! The bodies of the one-step operations in the form `oneStep_frame` asks for. -/

theorem csrw_body {index : Byte} {v : Word} {s : State} {p : Port} : ∃ st data csr ov d, (match Csr.ofIndex index with
    | none => raiseError s p .badDescriptor
    | some r => if r.writeLegal s.cfg v then csrwBody r v s p else raiseError s p .badDescriptor) = ({ s with csr := csr, rxOverflow := ov, draws := d } : State).putPort (p.finish st data) := by
  split
  · exact ⟨_, _, s.csr, s.rxOverflow, s.draws, rfl⟩
  · split
    · unfold csrwBody clearOverflow
      split_ifs
      · exact ⟨_, _, s.csr, false, s.draws, rfl⟩
      all_goals exact ⟨_, _, _, s.rxOverflow, s.draws, rfl⟩
    · exact ⟨_, _, s.csr, s.rxOverflow, s.draws, rfl⟩

/-- A CSRR uses up at most one draw. -/
theorem drawView_cases (s : State) (r : Csr) : drawView s r = s ∨ drawView s r = { s with draws := s.draws + 1 } := by
  unfold drawView; split <;> simp

theorem csrr_body {index : Byte} {s : State} {p : Port} : ∃ st data csr ov d, (match Csr.ofIndex index with
    | none => raiseError s p .badDescriptor
    | some r => respond (drawView s r) p .ok (wordBytes (csrRead s r))) = ({ s with csr := csr, rxOverflow := ov, draws := d } : State).putPort (p.finish st data) := by
  split
  · exact ⟨_, _, s.csr, s.rxOverflow, s.draws, rfl⟩
  · rename_i r _
    rcases drawView_cases s r with h | h <;> rw [h]
    · exact ⟨_, _, s.csr, s.rxOverflow, s.draws, rfl⟩
    · exact ⟨_, _, s.csr, s.rxOverflow, s.draws + 1, rfl⟩
theorem stuff_body {payload} {s : State} {p : Port} : ∃ st data csr ov d, (
    if s.cfg.maxPayload < List.length payload then raiseError s p .allocationFailure
    else respond s p .ok (stuff s.cfg.esc payload)) = ({ s with csr := csr, rxOverflow := ov, draws := d } : State).putPort (p.finish st data) := by
  split <;> exact ⟨_, _, s.csr, s.rxOverflow, s.draws, rfl⟩
theorem destuff_body {q} {s : State} {p : Port} : ∃ st data csr ov d, (
    if 2 * s.cfg.maxPayload < List.length q then raiseError s p .allocationFailure
    else
      match destuff s.cfg.esc q with
      | none => raiseError s p .malformedFrame
      | some payload => respond s p .ok payload) = ({ s with csr := csr, rxOverflow := ov, draws := d } : State).putPort (p.finish st data) := by
  split
  · exact ⟨_, _, s.csr, s.rxOverflow, s.draws, rfl⟩
  · split <;> exact ⟨_, _, s.csr, s.rxOverflow, s.draws, rfl⟩

/-- Every next state a port's move can have. -/
theorem runPort_next {c : Nat} {s t : State} (h : runPort c s = .next t) :
    t = s ∨ ∃ p, s.ports[c]? = some p ∧ p.ph ≠ .idle ∧ p.ph ≠ .done ∧
      ((∃ i, fetch s p = .ok i ∧ exec i { s with actor := c } = .next t) ∨
       (∃ e, fetch s p = .error e ∧ p.ph = .run ∧ p.pos = .start ∧
          t = raiseError { s with actor := c } p e.status)) := by
  unfold runPort at h
  split at h
  case h_1 => cases h
  case h_2 p hp =>
    split at h
    case isTrue => cases h; exact .inl rfl
    case isFalse hph =>
      simp only [not_or] at hph
      split at h
      case h_1 i hi => exact .inr ⟨p, hp, hph.1, hph.2, .inl ⟨i, hi, h⟩⟩
      case h_2 e he =>
        split at h
        case isTrue hc => cases h; exact .inr ⟨p, hp, hph.1, hph.2, .inr ⟨e, he, hc.1, hc.2, rfl⟩⟩
        case isFalse => cases h; exact .inl rfl

theorem issue_next {c : Nat} {d : List Byte} {s t : State} (h : issue c d s = .next t) :
    ∃ p, s.ports[c]? = some p ∧ p.ph = .idle ∧
      t = { s with
        ports := s.ports.set c { p.runAt .start with desc := d.take s.cfg.descCap, descLen := d.length } } := by
  unfold issue at h
  split at h
  · cases h
  · split at h
    · cases h; exact ⟨_, ‹_›, ‹_›, rfl⟩
    · cases h

theorem collect_next {c : Nat} {s t : State} (h : collect c s = .next t) :
    ∃ p, s.ports[c]? = some p ∧ p.ph = .done ∧
      t = { s with ports := s.ports.set c (p.enter .idle), collected := s.collected ++ [(c, p.rsp)] } := by
  unfold collect at h
  split at h
  · cases h
  · split at h
    · cases h; exact ⟨_, ‹_›, ‹_›, rfl⟩
    · cases h

/-- Taking the next move changes only `schedule` and `draws`. -/
theorem nextMove_frame (s : State) : ∃ q d, (nextMove s).2 = { s with schedule := q, draws := d } := by
  unfold nextMove
  split
  · exact ⟨_, s.draws, rfl⟩
  · rename_i h; exact ⟨[], _, by rw [← h]⟩

/-- A step is the next move performed, under a legal configuration. -/
theorem step_next {s t : State} (h : step s = .next t) :
    s.cfg.legal = true ∧ perform (nextMove s).1 (nextMove s).2 = .next t := by
  unfold step stepMachine at h
  split at h
  · exact ⟨‹_›, h⟩
  · cases h

theorem step_scheduled {s : State} {m : Move} {rest : List Move} (hl : s.cfg.legal = true)
    (h : s.schedule = m :: rest) : step s = perform m { s with schedule := rest } := by
  simp [step, stepMachine, hl, nextMove, h]

end Sys2Proof.Machine
end

