-- ==== Sys2Proof/Laws/Memory.lean ====
section
/-! SUPPORT. The canonical form of the spaces of bytes (`Memory.wf`) holds after reset and every operation on a space keeps
it; the first laws of the codec's output length. -/

namespace Sys2Proof.Machine

open Sys2Proof Sys2Proof.Config

/-! ## The frame fits the transmit buffer (41_transport.md R152) -/

theorem stuff_cons (esc b : Byte) (p : List Byte) :
    stuff esc (b :: p) = if b = esc then esc :: esc :: stuff esc p else b :: stuff esc p := rfl

theorem stuff_length_le (esc : Byte) (p : List Byte) : (stuff esc p).length ≤ 2 * p.length := by
  induction p with
  | nil => simp [stuff]
  | cons b p ih =>
    rw [stuff_cons]
    split <;> simp only [List.length_cons] <;> omega

theorem frame_length (g : Params) (p : List Byte) : (frame g p).length = (stuff g.esc p).length + 4 := by
  simp [frame]

theorem frame_fits {g : Params} {p : List Byte} (h : p.length ≤ g.maxPayload) : (frame g p).length ≤ g.txbufCap := by
  have := stuff_length_le g.esc p
  rw [frame_length]
  unfold Params.txbufCap
  omega

/-! ## The canonical form, part by part -/

theorem memory_wf_iff (s : State) :
    Memory.wf s = true ↔
      s.rxq.length ≤ s.cfg.rxqCap ∧ s.txbuf.length = s.cfg.txbufCap ∧ s.txlen ≤ s.cfg.txbufCap ∧
      s.rxbuf.length = s.cfg.rxbufCap ∧ s.ack.length = tcAckLen ∧ s.pktbuf.length = s.cfg.pktbufCap ∧
      s.holeMap = List.replicate s.cfg.holeMapBits false ∧ s.ports.length = s.cfg.nCallers ∧
      (∀ p ∈ s.ports, p.desc.length ≤ s.cfg.descCap) ∧ FilesSorted s.sink.files := by
  simp [Memory.wf, FilesSorted]

/-- The state after reset is in the canonical form (10_state.md R55). -/
theorem memory_wf_resetWith (g : Params) : Memory.wf (State.resetWith g) = true := by
  rw [memory_wf_iff]
  refine ⟨by simp [State.resetWith], by simp [State.resetWith], by simp [State.resetWith], by simp [State.resetWith],
    by simp [State.resetWith], by simp [State.resetWith], rfl, by simp [State.resetWith], ?_, by
      simp [State.resetWith, FilesSorted]⟩
  intro p hp
  simp only [State.resetWith] at hp
  rw [List.eq_of_mem_replicate hp]
  simp [Port.reset]

theorem memory_wf_reset : Memory.wf State.reset = true := memory_wf_resetWith _

/-- The form looks at the spaces only: two states with the same spaces have it together. -/
theorem memory_wf_congr {s t : State} (h : Memory.wf s = true) (h1 : t.cfg = s.cfg) (h2 : t.rxq = s.rxq)
    (h3 : t.txbuf = s.txbuf) (h4 : t.txlen = s.txlen) (h5 : t.rxbuf = s.rxbuf) (h6 : t.ack = s.ack)
    (h7 : t.pktbuf = s.pktbuf) (h8 : t.holeMap = s.holeMap) (h9 : t.ports = s.ports) (h10 : t.sink = s.sink) :
    Memory.wf t = true := by
  rw [memory_wf_iff] at h ⊢
  rw [h1, h2, h3, h4, h5, h6, h7, h8, h9, h10]
  exact h

/-! ## Every operation on a space keeps it -/

/-- Writing one port's registers keeps the form when its descriptor latch stays within `DESC_CAP`. -/
theorem memory_wf_setPort {s : State} {c : Nat} {p : Port} (h : Memory.wf s = true)
    (hd : p.desc.length ≤ s.cfg.descCap) : Memory.wf { s with ports := s.ports.set c p } = true := by
  rw [memory_wf_iff] at h ⊢
  obtain ⟨h1, h2, h3, h4, h5, h6, h7, h8, h9, h10⟩ := h
  refine ⟨h1, h2, h3, h4, h5, h6, h7, by simpa using h8, ?_, h10⟩
  intro q hq
  rcases List.mem_or_eq_of_mem_set hq with hq | rfl
  · exact h9 q hq
  · exact hd

theorem memory_wf_desc {s : State} {c : Nat} {p : Port} (h : Memory.wf s = true) (hp : s.ports[c]? = some p) :
    p.desc.length ≤ s.cfg.descCap :=
  ((memory_wf_iff s).mp h).2.2.2.2.2.2.2.2.1 p (List.mem_of_getElem? hp)

theorem memory_wf_rxPush {s : State} (b : Byte) (h : Memory.wf s = true) : Memory.wf (rxPush b s) = true := by
  rw [memory_wf_iff] at h
  rcases rxPush_cases b s with ⟨hl, e⟩ | ⟨hl, e⟩ <;> rw [e, memory_wf_iff]
  · refine ⟨?_, h.2⟩
    simp only [List.length_append, List.length_cons, List.length_nil]
    omega
  · exact h

theorem memory_wf_rxPop {s : State} {b : Byte} {q : List Byte} (h : Memory.wf s = true) (hq : s.rxq = b :: q) :
    Memory.wf { s with rxq := q } = true := by
  rw [memory_wf_iff] at h ⊢
  refine ⟨?_, h.2⟩
  have := h.1
  rw [hq, List.length_cons] at this
  show q.length ≤ s.cfg.rxqCap
  omega

/-- The Encode step's write of the transmit buffer. -/
theorem memory_wf_stage {s : State} {p : List Byte} (h : Memory.wf s = true) (hp : p.length ≤ s.cfg.maxPayload) :
    Memory.wf { s with txbuf := writePrefix s.txbuf (frame s.cfg p), txlen := (frame s.cfg p).length } = true := by
  rw [memory_wf_iff] at h ⊢
  obtain ⟨h1, h2, _, h4⟩ := h
  exact ⟨h1, by simpa [writePrefix_length] using h2, frame_fits hp, h4⟩

theorem memory_wf_sendFrame {s : State} (h : Memory.wf s = true) : Memory.wf (sendFrame s) = true :=
  memory_wf_congr h rfl rfl rfl rfl rfl rfl rfl rfl rfl rfl

theorem memory_wf_setAck {s : State} (k : Nat) (b : Byte) (h : Memory.wf s = true) :
    Memory.wf { s with ack := s.ack.set k b } = true := by
  rw [memory_wf_iff] at h ⊢
  obtain ⟨h1, h2, h3, h4, h5, h6⟩ := h
  exact ⟨h1, h2, h3, h4, by simpa using h5, h6⟩

theorem memory_wf_setRxbuf {s : State} (k : Nat) (b : Byte) (h : Memory.wf s = true) :
    Memory.wf { s with rxbuf := s.rxbuf.set k b } = true := by
  rw [memory_wf_iff] at h ⊢
  obtain ⟨h1, h2, h3, h4, h5⟩ := h
  exact ⟨h1, h2, h3, by simpa using h4, h5⟩

theorem memory_wf_setPktbuf {s : State} (k : Nat) (b : Byte) (h : Memory.wf s = true) :
    Memory.wf { s with pktbuf := s.pktbuf.set k b } = true := by
  rw [memory_wf_iff] at h ⊢
  obtain ⟨h1, h2, h3, h4, h5, h6, h7⟩ := h
  exact ⟨h1, h2, h3, h4, h5, by simpa using h6, h7⟩

/-- The sink's files keep their canonical order under every sink call. -/
theorem memory_wf_sink {s : State} {k : Sink} (h : Memory.wf s = true) (hk : FilesSorted k.files) :
    Memory.wf { s with sink := k } = true := by
  rw [memory_wf_iff] at h ⊢
  obtain ⟨h1, h2, h3, h4, h5, h6, h7, h8, h9, _⟩ := h
  exact ⟨h1, h2, h3, h4, h5, h6, h7, h8, h9, hk⟩

theorem memory_wf_sinkDraw {s : State} (h : Memory.wf s = true) : Memory.wf (sinkDraw s).2 = true := by
  obtain ⟨a, d, e⟩ := sinkDraw_frame s
  rw [e]
  exact memory_wf_congr h rfl rfl rfl rfl rfl rfl rfl rfl rfl rfl

theorem memory_wf_files {s : State} (h : Memory.wf s = true) : FilesSorted s.sink.files :=
  ((memory_wf_iff s).mp h).2.2.2.2.2.2.2.2.2

theorem memory_wf_sinkOpen {s : State} (f : FileId) (h : Memory.wf s = true) : Memory.wf (sinkOpen f s).2 = true := by
  have hd := memory_wf_sinkDraw h
  unfold sinkOpen
  split <;> rename_i s' e <;> rw [e] at hd <;> simp only at hd ⊢
  · unfold sinkOpened
    split
    · exact memory_wf_sink hd (filesPut_sorted (memory_wf_files hd))
    · exact memory_wf_congr (memory_wf_sink hd (filesPut_sorted (memory_wf_files hd))) rfl rfl rfl rfl rfl rfl rfl rfl
        rfl rfl
  · exact hd

theorem memory_wf_sinkWrite {s : State} (bs : List Byte) (h : Memory.wf s = true) :
    Memory.wf (sinkWrite bs s).2 = true := by
  have hd := memory_wf_sinkDraw h
  unfold sinkWrite
  split <;> rename_i s' e <;> rw [e] at hd <;> simp only at hd ⊢
  · unfold sinkAppend
    split
    · exact hd
    · exact memory_wf_sink hd (filesPut_sorted (memory_wf_files hd))
  · exact hd

theorem memory_wf_sinkWriteSome {s : State} (bs : List Byte) (h : Memory.wf s = true) :
    Memory.wf (sinkWriteSome bs s).2 = true := by
  cases bs with
  | nil => exact h
  | cons b rest => exact memory_wf_sinkWrite (b :: rest) h

theorem memory_wf_sinkClose {s : State} (h : Memory.wf s = true) : Memory.wf (sinkClose s).2 = true := by
  obtain ⟨a, d, e⟩ := sinkClose_frame s
  rw [e]
  exact memory_wf_congr (memory_wf_sink (k := { s.sink with cur := none }) h (memory_wf_files h)) rfl rfl rfl rfl rfl rfl
    rfl rfl rfl rfl

theorem memory_wf_issue {c : Nat} {d : List Byte} {s t : State} (h : Memory.wf s = true) (hi : issue c d s = .next t) :
    Memory.wf t = true := by
  obtain ⟨p, hp, _, rfl⟩ := issue_next hi
  exact memory_wf_setPort h (by simp)

theorem memory_wf_collect {c : Nat} {s t : State} (h : Memory.wf s = true) (hc : collect c s = .next t) :
    Memory.wf t = true := by
  obtain ⟨p, hp, _, rfl⟩ := collect_next hc
  have hd : (p.enter .idle).desc.length ≤ s.cfg.descCap := memory_wf_desc (p := p) h hp
  exact memory_wf_congr (memory_wf_setPort (c := c) (p := p.enter .idle) h hd) rfl rfl rfl rfl rfl rfl
    rfl rfl rfl rfl

theorem memory_wf_resetBlock {s : State} (h : Memory.wf s = true) : Memory.wf (resetBlock s) = true :=
  memory_wf_congr (memory_wf_sink (memory_wf_resetWith s.cfg) (memory_wf_files h)) rfl rfl rfl rfl rfl rfl rfl rfl rfl rfl

end Sys2Proof.Machine
end

