-- ==== Sys2Proof/Laws/PerInstr.lean ====
section
/-! SUPPORT. Statements about every instruction, one lemma per constructor of `Instr`. -/

namespace Sys2Proof

/-- The shape of an operation's descriptor (30_encoding.md R103 to R111, R115): its first byte is the operation's code, and
its length is the one the format requires: 3 bytes and the payload for format V, 4 for T, 9 for D, 6 for W, 2 for R. -/
def Laws.EncodingShape.Statement (i : Instr) : Prop :=
  (encode i).head? = some i.opcode ∧
    (encode i).length = match i with
      | .stuff p => 3 + p.length
      | .destuff q => 3 + q.length
      | .tc p => 3 + p.length
      | .tcnr p => 3 + p.length
      | .tm _ _ => 4
      | .dl _ _ _ _ => 9
      | .csrw _ _ => 6
      | .csrr _ => 2

theorem Laws.EncodingShape.stuff (p : List Byte) : Laws.EncodingShape.Statement (.stuff p) :=
  ⟨rfl, by simp [encode, leBytes]; omega⟩

theorem Laws.EncodingShape.destuff (q : List Byte) : Laws.EncodingShape.Statement (.destuff q) :=
  ⟨rfl, by simp [encode, leBytes]; omega⟩

theorem Laws.EncodingShape.tc (p : List Byte) : Laws.EncodingShape.Statement (.tc p) :=
  ⟨rfl, by simp [encode, leBytes]; omega⟩

theorem Laws.EncodingShape.tcnr (p : List Byte) : Laws.EncodingShape.Statement (.tcnr p) :=
  ⟨rfl, by simp [encode, leBytes]; omega⟩

theorem Laws.EncodingShape.tm (tlmId : Byte) (req : Half) : Laws.EncodingShape.Statement (.tm tlmId req) :=
  ⟨rfl, rfl⟩

theorem Laws.EncodingShape.dl (type counter : Byte) (size : Word) (blen : Half) :
    Laws.EncodingShape.Statement (.dl type counter size blen) :=
  ⟨rfl, rfl⟩

theorem Laws.EncodingShape.csrw (index : Byte) (v : Word) : Laws.EncodingShape.Statement (.csrw index v) :=
  ⟨rfl, rfl⟩

theorem Laws.EncodingShape.csrr (index : Byte) : Laws.EncodingShape.Statement (.csrr index) :=
  ⟨rfl, rfl⟩

end Sys2Proof
end

