-- ==== Sys2Proof/Tests/Slice0.lean ====
section
/-! SUPPORT. The model's own tests. Every expected value is the spec's: its encodings (30_encoding.md), the examples of the
operation files, or the vectors of 95_test_vectors.md, named in each docstring. After them, for every statement that has
hypotheses, a state and operands that meet them. -/

namespace Sys2Proof.Tests

open Sys2Proof Sys2Proof.Config Sys2Proof.Machine

/-! ## Helpers -/

/-- A configuration with small buffers: the defaults but for three capacities. -/
def small : Params := { standard with maxPayload := 9, rxqCap := 16, holeMapBits := 4 }

theorem small_legal : small.legal = true := by decide

/-- A port that runs outside a conversation, at `pos`. -/
def portAt (pos : RunPos) : Port := { Port.reset with ph := .run, pos := pos }

/-- A port in phase `ph`, with no wait. -/
def portIn (ph : Phase) : Port := { Port.reset with ph := ph }

/-- A port in phase `ph`, in a wait with bound `bound` begun at time 0. -/
def portWaiting (ph : Phase) (bound : Nat) : Port := { Port.reset with ph := ph, bound := bound, waiting := true }

/-- A port at the start of the operation `i`. -/
def portRunning (i : Instr) : Port := { portAt .start with desc := encode i, descLen := (encode i).length }

/-- The state after reset with `p` as port 0, which acts. -/
def stateOf (p : Port) : State := { State.resetWith small with ports := [p, Port.reset] }

/-- A download of block length 2 with one data byte in a packet, after its burst was started. -/
def burst (p : Port) : State :=
  { stateOf p with
    fdeState := .burstInProgress
    sinkOpen := true
    sink := ⟨[(⟨2, 7⟩, [])], some ⟨2, 7⟩⟩
    dlBlockLen := 2
    dlPdl := 1
    npk := 2
    rem := 2 }

/-- One field of a next state. -/
def read {α : Type} (f : State → α) : Result → Option α
  | .next t => some (f t)
  | .fault _ => none
  | .refused _ => none

/-- The registers of port 0 of a next state. -/
def port0 {α : Type} (f : Port → α) (r : Result) : Option α := (read (fun t => t.ports[0]?.map f) r).join

theorem acts (pos : RunPos) : (stateOf (portAt pos)).actsAt (portAt pos) pos := ⟨rfl, rfl, rfl⟩

theorem actsIn (ph : Phase) : (stateOf (portIn ph)).actsIn (portIn ph) ph := ⟨rfl, rfl⟩

theorem actsWaiting (ph : Phase) (bound : Nat) :
    (stateOf (portWaiting ph bound)).actsIn (portWaiting ph bound) ph := ⟨rfl, rfl⟩

/-! ## Decoding: words written out from the encodings of 30_encoding.md -/

/-- R104, the example of R138: `01 03 00 01 1F 02`. -/
theorem test_decode_stuff : decodeTableWord 48 0x021F01000301 = some (.stuff [0x01, 0x1F, 0x02]) := by decide
/-- R105, the example of R139: `02 04 00 41 1F 1F 42`. -/
theorem test_decode_destuff : decodeTableWord 56 0x421F1F41000402 = some (.destuff [0x41, 0x1F, 0x1F, 0x42]) := by decide
/-- R106, V15: `10 01 00 0A`. -/
theorem test_decode_tc : decodeTableWord 32 0x0A000110 = some (.tc [0x0A]) := by decide
/-- R107, the example of R161: `11 01 00 01`. -/
theorem test_decode_tcnr : decodeTableWord 32 0x01000111 = some (.tcnr [0x01]) := by decide
/-- R108, V19: `12 92 06 00`; `tlm_id` is byte 1, `req` bytes 2 and 3, low byte first. -/
theorem test_decode_tm : decodeTableWord 32 0x00069212 = some (.tm 0x92 6) := by decide
/-- R109: `20 02 07 44 33 22 11 66 55`, every byte of `size` and `blen` told apart. -/
theorem test_decode_dl : decodeTableWord 72 0x556611223344070220 = some (.dl 2 7 0x11223344 0x5566) := by decide
/-- R110, V44: `30 00 64 00 00 00`. -/
theorem test_decode_csrw : decodeTableWord 48 0x000000640030 = some (.csrw 0x00 100) := by decide
/-- R111, V44: `31 00`. -/
theorem test_decode_csrr : decodeTableWord 16 0x0031 = some (.csrr 0x00) := by decide
/-- V31: an undefined code. -/
theorem test_decode_undefined : decodeTableWord 8 0x00 = none := by decide

/-! ## Well-formedness: one ill-formed term for each check -/

theorem test_illFormed_payloadLength : Instr.wellFormed small (.stuff (List.replicate 65536 0)) = false := by
  simp only [Instr.wellFormed, Instr.encodable, Instr.payloadLength, List.length_replicate, Nat.lt_irrefl, decide_false,
    Bool.false_and]
/-- R114 (1): a descriptor of 23 bytes against a latch of 22. -/
theorem test_illFormed_tooLong : Instr.wellFormed small (.destuff (List.replicate 20 0)) = false := by decide
/-- V33. -/
theorem test_illFormed_emptyTelecommand : Instr.wellFormed standard (.tc []) = false := by decide
theorem test_illFormed_emptyTelecommandNoReply : Instr.wellFormed standard (.tcnr []) = false := by decide
/-- V35. -/
theorem test_illFormed_size0 : Instr.wellFormed standard (.dl 2 7 0 0x28) = false := by decide
/-- V36. -/
theorem test_illFormed_blen0 : Instr.wellFormed standard (.dl 2 7 0x28 0) = false := by decide
/-- V37. -/
theorem test_illFormed_reservedCsr : Instr.wellFormed standard (.csrr 0x08) = false := by decide
/-- V38. -/
theorem test_illFormed_readOnlyCsr : Instr.wellFormed standard (.csrw 0x11 0) = false := by decide
/-- V39. -/
theorem test_illFormed_pktDataLen0 : Instr.wellFormed standard (.csrw 0x05 0) = false := by decide
/-- V40. -/
theorem test_illFormed_pktDataLen21 : Instr.wellFormed standard (.csrw 0x05 21) = false := by decide
/-- V41. -/
theorem test_illFormed_retryBudget : Instr.wellFormed standard (.csrw 0x04 65536) = false := by decide
/-- V42. -/
theorem test_illFormed_fillByte : Instr.wellFormed standard (.csrw 0x07 256) = false := by decide
theorem test_wellFormed_dl : Instr.wellFormed standard (.dl 2 7 0x28 0x28) = true := by decide

/-! ## The codec -/

/-- V4. -/
theorem test_stuff_markers : stuff 0x1F [0x1F, 0x1F] = [0x1F, 0x1F, 0x1F, 0x1F] := by decide
/-- V8. -/
theorem test_destuff_oddRun : destuff 0x1F [0x1F, 0x1F, 0x1F] = none := by decide
/-- V9: the skipped byte is not examined. -/
theorem test_destuff_skips : destuff 0x1F [0x1F, 0x41] = some [0x1F] := by decide

/-! ## One step of each operation -/

/-- The example of R138, V2. -/
theorem test_stuff_answers : port0 (·.rsp) (exec (.stuff [0x01, 0x1F, 0x02]) (stateOf (portAt .start))) =
    some ⟨.ok, [0x01, 0x1F, 0x1F, 0x02]⟩ := by decide
/-- R138: one byte over `MAX_PAYLOAD`. -/
theorem test_stuff_tooLong : port0 (·.rsp) (exec (.stuff (List.replicate 10 0)) (stateOf (portAt .start))) =
    some ⟨.allocationFailure, []⟩ := by decide
/-- The example of R139, V10. -/
theorem test_destuff_answers : port0 (·.rsp) (exec (.destuff [0x41, 0x1F, 0x1F, 0x42]) (stateOf (portAt .start))) =
    some ⟨.ok, [0x41, 0x1F, 0x42]⟩ := by decide
/-- V7. -/
theorem test_destuff_malformed : port0 (·.rsp) (exec (.destuff [0x1F]) (stateOf (portAt .start))) =
    some ⟨.malformedFrame, []⟩ := by decide
/-- V14: an opcode equal to `ESC` is stuffed. -/
theorem test_tc_frame :
    read (fun t => t.txbuf.take t.txlen) (exec (.tc [0x1F]) (stateOf (portIn .encode))) =
      some [0x1F, 0x7F, 0x1F, 0x1F, 0x1F, 0xFF] := by decide
/-- V15: the last acknowledgment byte; the device's status is `data[2]`. -/
theorem test_tc_deviceError :
    port0 (·.ret) (exec (.tc [0x0A])
      { stateOf { portWaiting .receive 10 with k := 3 } with ack := [0x0A, 0x01, 0x03, 0x00], rxq := [0x02] }) =
    some ⟨.deviceReportedError, [0x0A, 0x01, 0x03, 0x02]⟩ := by decide
/-- V30: TCNR ends with the transmit-complete event and leaves the queue. -/
theorem test_tcnr_leaves :
    read (fun t => (t.rxq, t.txDone, t.ports[0]?.map (·.ret)))
      (exec (.tcnr [0x01]) { stateOf (portWaiting .transmit 10) with txDone := true, rxq := [0x01] }) =
    some ([0x01], false, some ⟨.ok, []⟩) := by decide
/-- V20: a longer reply is cut to `req`. -/
theorem test_tm_cut :
    port0 (·.ret) (exec (.tm 0x92 1) { stateOf (portWaiting .receive 10) with
      rxbuf := [0x1F, 0x7F, 0x92, 0x00, 0x00, 0xAA, 0xBB, 0x1F] ++ List.replicate 17 0, rxcnt := 8, rxq := [0xFF] }) =
    some ⟨.ok, [0xAA]⟩ := by decide
/-- V22: an end pair after 5 bytes. -/
theorem test_tm_short :
    port0 (·.ret) (exec (.tm 0x92 4) { stateOf (portWaiting .receive 10) with
      rxbuf := [0x1F, 0x7F, 0x92, 0x1F] ++ List.replicate 21 0, rxcnt := 4, rxq := [0xFF] }) =
    some ⟨.malformedFrame, []⟩ := by decide
/-- R203: the operands and the parameters are latched; `PKT_DATA_LEN` is 20 after reset (R43). -/
theorem test_dl_creates :
    read (fun t => (t.dlType, t.dlCounter, t.dlSize, t.dlBlockLen, t.dlPdl, t.dlRetry))
      (exec (.dl 2 7 0x28 0x29) (stateOf (portAt .create))) = some (2, 7, 0x28, 0x29, 20, 2) := by decide
/-- S8, P4: the first packet was dropped, its place is filled. -/
theorem test_dl_fills :
    read (fun t => fileContent t ⟨2, 7⟩) (exec (.dl 2 7 2 2)
      { burst (portAt .deliver) with seq := 1, dlFill := 0xEE, sinkAnswers := [true] }) = some (some [0xEE]) := by decide
/-- V44. -/
theorem test_csrw_writes :
    read (fun t => (t.csr.rxByteTimeout, t.csr.txDoneTimeout)) (exec (.csrw 0x00 100) (stateOf (portAt .start))) =
      some (100, 10) := by decide
/-- V46, `CLROVF`. -/
theorem test_csrw_clearsOverflow :
    read (·.rxOverflow) (exec (.csrw 0x10 8) { stateOf (portAt .start) with rxOverflow := true }) = some false := by decide
/-- V45. -/
theorem test_csrr_pktDataLen : port0 (·.rsp) (exec (.csrr 0x05) (stateOf (portAt .start))) =
    some ⟨.ok, [0x14, 0x00, 0x00, 0x00]⟩ := by decide
/-- V48: link and session owned, `BurstInProgress`, sink open: `B3`. -/
theorem test_csrr_status :
    port0 (·.rsp) (exec (.csrr 0x10) { burst (portAt .start) with linkOwner := some 1, sessionOwner := some 1 }) =
      some ⟨.ok, [0xB3, 0x00, 0x00, 0x00]⟩ := by decide

/-! ## Steps of the machine -/

/-- The word of `CSRR p0, PKT_DATA_LEN` (V45), run as the first operation after reset. -/
theorem test_step_runsTheWord :
    port0 (·.rsp) (step (State.reset.withFetchWord 16 0x0531)) = some ⟨.ok, [0x14, 0x00, 0x00, 0x00]⟩ := by decide
/-- R65, V46: a byte that finds the queue full is lost and `rx_overflow` is set. -/
theorem test_rx_overflow :
    read (fun t => (t.rxq.length, t.rxOverflow))
      (perform (.rx 0x55) { stateOf Port.reset with rxq := List.replicate 16 0 }) = some (16, true) := by decide
/-- U15: a configuration that breaks a constraint of R8 is refused. -/
theorem test_illegalConfiguration : step { State.reset with cfg := { standard with som := 0x1F } } =
    .refused .illegalConfiguration := rfl

/-! ## Witnesses: for each statement with hypotheses, a state and operands that meet them, clause by clause -/

theorem witness_CleanDataIsUnchanged : (0x1F : Byte) ∉ [(0x7F : Byte), 0xFF] := by decide

/-- 9 bytes fit, 10 do not. -/
theorem witness_StuffAnswersInOneStep :
    (stateOf (portAt .start)).actsAt (portAt .start) .start ∧ (List.replicate 9 (0 : Byte)).length ≤ small.maxPayload ∧
      small.maxPayload < (List.replicate 10 (0 : Byte)).length := ⟨acts _, by decide, by decide⟩

/-- 19 bytes do not fit, 18 do: with a marker last, and without one. -/
theorem witness_DestuffAnswersInOneStep :
    (stateOf (portAt .start)).actsAt (portAt .start) .start ∧
      2 * small.maxPayload < (List.replicate 19 (0 : Byte)).length ∧
      ((List.replicate 17 (0 : Byte) ++ [0x1F]).length ≤ 2 * small.maxPayload ∧
        destuff small.esc (List.replicate 17 (0 : Byte) ++ [0x1F]) = none) ∧
      ((List.replicate 18 (0 : Byte)).length ≤ 2 * small.maxPayload ∧
        destuff small.esc (List.replicate 18 (0 : Byte)) = some (List.replicate 18 0)) :=
  ⟨acts _, by decide, by decide, by decide⟩

/-- A descriptor of exactly `DESC_CAP` bytes. -/
theorem witness_DecodeOfEncode :
    (Instr.destuff (List.replicate 19 0)).encodable = true ∧ (Instr.destuff (List.replicate 19 0)).fits small = true ∧
      (encode (Instr.destuff (List.replicate 19 0))).length = small.descCap := by decide

theorem witness_EncodeOfDecode : decode small.descCap 4 [0x12, 0x92, 0x03, 0x00] = .ok (.tm 0x92 3) := rfl

/-- The two answers: 23 bytes against a latch of 22; an undefined code. -/
theorem witness_IllegalDescriptorIsAnsweredAtDecode :
    (stateOf Port.reset).ports[0]? = some Port.reset ∧ Port.reset.ph = .idle ∧
      descriptorAnswer small (List.replicate 23 0x01) = some .allocationFailure ∧
      descriptorAnswer small [0x00] = some .badDescriptor := by decide

/-- A legal and an illegal descriptor. -/
theorem witness_LegalDescriptorsAreTheWellFormedOnes :
    descriptorAnswer small [0x10, 0x01, 0x00, 0x0A] = none ∧
      descriptorAnswer small [0x10, 0x00, 0x00] = some .badDescriptor := by decide

/-- `STATUS`; a configuration register with the link owned, with the session alone owned, and with both free. -/
theorem witness_CsrwWritesTheRegister :
    (stateOf (portAt .start)).actsAt (portAt .start) .start ∧
      (Csr.ofIndex 0x10 = some .status ∧ Csr.writeLegal small .status 8 = true) ∧
      (Csr.ofIndex 0x04 = some .pktRetryBudget ∧ Csr.writeLegal small .pktRetryBudget 65535 = true ∧
        Csr.pktRetryBudget ≠ .status) ∧
      (State.actsAt { stateOf (portAt .start) with linkOwner := some 1 } (portAt .start) .start ∧
        State.actsAt { stateOf (portAt .start) with sessionOwner := some 1 } (portAt .start) .start) ∧
      ((stateOf (portAt .start)).linkOwner = none ∧ (stateOf (portAt .start)).sessionOwner = none) :=
  ⟨acts _, by decide, by decide, ⟨⟨rfl, rfl, rfl⟩, ⟨rfl, rfl, rfl⟩⟩, rfl, rfl⟩

/-- Each kind of illegal write at its boundary, and the legal neighbours. -/
theorem witness_CsrwRefusesIllegalWrites :
    (stateOf (portAt .start)).actsAt (portAt .start) .start ∧
      (0x08 : Byte) ∉ [(0x00 : Byte), 0x01, 0x02, 0x03, 0x04, 0x05, 0x06, 0x07, 0x10] ∧
      (65535 < (65536 : Word).toNat ∧ ¬65535 < (65535 : Word).toNat) ∧
      ((0 : Word).toNat < 1 ∧ small.maxPktData < (21 : Word).toNat ∧ ¬small.maxPktData < (20 : Word).toNat) ∧
      (255 < (256 : Word).toNat ∧ ¬255 < (255 : Word).toNat) :=
  ⟨acts _, by decide, by decide, by decide, by decide⟩

/-- The first and the last implemented index, and the reserved one after it; the session registers and `i` written and
not written since reset; a queue of one byte less than 32 bits count, and of one more than that. -/
theorem witness_CsrrReadsTheRegisterOfItsIndex :
    (stateOf (portAt .start)).actsAt (portAt .start) .start ∧
      State.actsAt { stateOf (portAt .start) with sessionLatched := true, indexSet := true } (portAt .start) .start ∧
      (stateOf (portAt .start)).sessionLatched = false ∧ (stateOf (portAt .start)).indexSet = false ∧
      (Csr.ofIndex 0x00 = some .rxByteTimeout ∧ Csr.ofIndex 0x15 = some .dlIndex ∧ Csr.ofIndex 0x16 = none) ∧
      ∀ n : Nat, State.actsAt { stateOf (portAt .start) with rxq := List.replicate n 0 } (portAt .start) .start ∧
        (n = 4294967295 → (List.replicate n (0 : Byte)).length < 4294967296) ∧
        (n = 4294967296 → 4294967296 ≤ (List.replicate n (0 : Byte)).length) :=
  ⟨acts _, ⟨rfl, rfl, rfl⟩, rfl, rfl, by decide, fun n =>
    ⟨⟨rfl, rfl, rfl⟩, fun h => by rw [List.length_replicate]; omega, fun h => by rw [List.length_replicate]; omega⟩⟩

theorem witness_WrittenRegisterReadsBack : ∃ t : State,
    (stateOf (portAt .start)).actsAt (portAt .start) .start ∧ Csr.ofIndex 0x07 = some .gapFillByte ∧
      Csr.gapFillByte ≠ .status ∧ Csr.writeLegal small .gapFillByte 255 = true ∧
      (stateOf (portAt .start)).linkOwner = none ∧ (stateOf (portAt .start)).sessionOwner = none ∧
      exec (.csrw 0x07 255) (stateOf (portAt .start)) = .next t :=
  ⟨_, acts _, by decide, by decide, by decide, rfl, rfl, rfl⟩

theorem witness_ConfigurationIsFrozenWhileBusy : ∃ s t : State,
    (s.linkOwner ≠ none ∨ s.sessionOwner ≠ none) ∧ s.move ≠ .reset ∧ step s = .next t :=
  ⟨{ stateOf Port.reset with linkOwner := some 1, schedule := [.tick] }, _, .inl (by decide), by decide, rfl⟩

/-- The link free; owned with the bound of 10 reached. For TC and for a poll of DL. -/
theorem witness_AcquireTakesAFreeLinkOrTimesOut :
    (stateOf (portWaiting .acquire 10)).actsIn (portWaiting .acquire 10) .acquire ∧
      callOf (stateOf (portWaiting .acquire 10)) (.tc [0x0A]) = some (tcCall [0x0A]) ∧
      (callOf { stateOf (portWaiting .acquire 10) with fdeState := .blockReady } (.dl 2 7 40 40)).isSome = true ∧
      (stateOf (portWaiting .acquire 10)).linkOwner = none ∧
      State.boundPassed { stateOf (portWaiting .acquire 10) with linkOwner := some 1, now := 10 } (portWaiting .acquire 10) :=
  ⟨actsWaiting _ _, rfl, rfl, rfl, by unfold State.boundPassed; decide⟩

/-- A payload of `MAX_PAYLOAD` markers, and one byte more. -/
theorem witness_EncodeStagesTheFrame :
    (stateOf (portIn .encode)).actsIn (portIn .encode) .encode ∧
      (stateOf (portIn .encode)).txbuf.length = small.txbufCap ∧
      (callOf (stateOf (portIn .encode)) (.tc (List.replicate 9 0x1F)) = some (tcCall (List.replicate 9 0x1F)) ∧
        (tcCall (List.replicate 9 0x1F)).payload.length ≤ small.maxPayload) ∧
      (callOf (stateOf (portIn .encode)) (.tc (List.replicate 10 0)) = some (tcCall (List.replicate 10 0)) ∧
        small.maxPayload < (tcCall (List.replicate 10 0)).payload.length) :=
  ⟨actsIn _, by decide, ⟨rfl, by decide⟩, rfl, by decide⟩

/-- Before the hand-over; after it with the completion for each kind; and without it at the bound. -/
theorem witness_TransmitSendsThenWaitsForCompletion :
    ((stateOf (portIn .transmit)).actsIn (portIn .transmit) .transmit ∧ (portIn .transmit).waiting = false) ∧
      ((stateOf (portWaiting .transmit 10)).actsIn (portWaiting .transmit 10) .transmit ∧
        (portWaiting .transmit 10).waiting = true) ∧
      State.actsIn { stateOf (portWaiting .transmit 10) with txDone := true } (portWaiting .transmit 10) .transmit ∧
      ((tcCall [1]).kind = .tc ∧ (tcnrCall [1]).kind = .tcnr ∧ (tmCall 0x92 4).kind = .tm) ∧
      State.boundPassed { stateOf (portWaiting .transmit 10) with now := 10 } (portWaiting .transmit 10) :=
  ⟨⟨actsIn _, rfl⟩, ⟨actsWaiting _ _, rfl⟩, ⟨rfl, rfl⟩, ⟨rfl, rfl, rfl⟩, by unfold State.boundPassed; decide⟩

/-- A third byte and a fourth byte; no byte at the bound. -/
theorem witness_AcknowledgmentIsReadByteByByte :
    (∀ k : Nat, State.actsIn { stateOf { portWaiting .receive 10 with k := k } with rxq := [0x0A] }
      { portWaiting .receive 10 with k := k } .receive) ∧
      callOf (stateOf (portWaiting .receive 10)) (.tc [0x0A]) = some (tcCall [0x0A]) ∧ (tcCall [0x0A]).kind = .tc ∧
      (2 + 1 < 4 ∧ 4 ≤ 3 + 1) ∧ (stateOf (portWaiting .receive 10)).rxq = [] ∧
      State.boundPassed { stateOf (portWaiting .receive 10) with now := 10 } (portWaiting .receive 10) :=
  ⟨fun _ => ⟨rfl, rfl⟩, rfl, rfl, by decide, rfl, by unfold State.boundPassed; decide⟩

/-- A byte that ends the reply, one that fills the buffer of 25, one that does neither. -/
theorem witness_ReplyIsReadToTheEndPair :
    (stateOf (portWaiting .receive 10)).actsIn (portWaiting .receive 10) .receive ∧
      callOf (stateOf (portWaiting .receive 10)) (.tm 0x92 4) = some (tmCall 0x92 4) ∧ (tmCall 0x92 4).kind = .tm ∧
      (2 ≤ 1 + 1 ∧ ([(0x1F : Byte), 0, 0].set 1 0xFF).getD 0 0 = small.esc ∧
        ([(0x1F : Byte), 0, 0].set 1 0xFF).getD 1 0 = small.eom) ∧
      (24 + 1 = small.rxbufCap ∧ 23 + 1 ≠ small.rxbufCap) ∧
      ((stateOf (portWaiting .receive 10)).rxq = [] ∧
        State.boundPassed { stateOf (portWaiting .receive 10) with now := 10 } (portWaiting .receive 10)) :=
  ⟨actsWaiting _ _, rfl, rfl, by decide, by decide, rfl, by unfold State.boundPassed; decide⟩

/-- A held burst that went well, and every other call. -/
theorem witness_ReleaseFreesTheLink :
    (stateOf (portIn .release)).actsIn (portIn .release) .release ∧ (portIn .release).ret.status = .ok ∧
      ((callOf { stateOf (portIn .release) with fdeState := .burstInProgress } (.dl 2 7 40 40)).map (·.hold) = some true) ∧
      (callOf (stateOf (portIn .release)) (.tc [0x0A]) = some (tcCall [0x0A]) ∧ (tcCall [0x0A]).hold = false) :=
  ⟨actsIn _, rfl, rfl, rfl, rfl⟩

theorem witness_TransportOperationsBeginAndRespond :
    (stateOf (portAt .start)).actsAt (portAt .start) .start ∧ [(0x0A : Byte)] ≠ [] ∧
      (stateOf (portAt .ret)).actsAt (portAt .ret) .ret := ⟨acts _, by decide, acts _⟩

/-- The hypotheses of the conversations that run from reset, with `TC p0, 0x0A` issued. -/
theorem witness_TelecommandRunsToItsAcknowledgment :
    let p := portRunning (.tc [0x0A])
    let s := stateOf p
    s.ports[0]? = some p ∧ p.ph = .run ∧ p.pos = .start ∧ fetch s p = .ok (.tc [0x0A]) ∧ [(0x0A : Byte)] ≠ [] ∧
      [(0x0A : Byte)].length ≤ s.cfg.maxPayload ∧ s.linkOwner = none ∧ s.rxq = [] ∧ 4 ≤ s.cfg.rxqCap ∧
      s.txbuf.length = s.cfg.txbufCap ∧ s.ack.length = 4 :=
  ⟨rfl, rfl, rfl, rfl, by decide, by decide, rfl, rfl, by decide, by decide, by decide⟩

theorem witness_TelecommandWithoutReplyLeavesTheQueue :
    let p := portRunning (.tcnr [0x01])
    let s := stateOf p
    s.ports[0]? = some p ∧ p.ph = .run ∧ p.pos = .start ∧ fetch s p = .ok (.tcnr [0x01]) ∧ [(0x01 : Byte)] ≠ [] ∧
      [(0x01 : Byte)].length ≤ s.cfg.maxPayload ∧ s.linkOwner = none ∧ s.txbuf.length = s.cfg.txbufCap :=
  ⟨rfl, rfl, rfl, rfl, by decide, by decide, rfl, by decide⟩

/-- No two bytes before the last end the reply, checked one length at a time. -/
theorem noEarlyEnd {reply : List Byte} (h : ∀ n ∈ List.range reply.length, 2 ≤ n →
      ¬(reply.getD (n - 2) 0 = small.esc ∧ reply.getD (n - 1) 0 = small.eom)) :
    ∀ n : Nat, 2 ≤ n → n < reply.length → ¬(reply.getD (n - 2) 0 = small.esc ∧ reply.getD (n - 1) 0 = small.eom) :=
  fun n h2 hn => h n (List.mem_range.mpr hn) h2

/-- `TM p0, 0x92, 4` with the reply of V22 (5 bytes), the shortest well-formed one of V21 (7 bytes), and one of 8. -/
theorem witness_TelemetryReplyIsCutAndDestuffed :
    let p := portRunning (.tm 0x92 4)
    let s := stateOf p
    (s.ports[0]? = some p ∧ p.ph = .run ∧ p.pos = .start ∧ fetch s p = .ok (.tm 0x92 4) ∧ 1 ≤ s.cfg.maxPayload ∧
      s.linkOwner = none ∧ s.rxq = [] ∧ s.txbuf.length = s.cfg.txbufCap ∧ s.rxbuf.length = s.cfg.rxbufCap) ∧
    ∀ reply ∈ [[(0x1F : Byte), 0x7F, 0x92, 0x1F, 0xFF], [0x1F, 0x7F, 0x92, 0, 0, 0x1F, 0xFF],
        [0x1F, 0x7F, 0x92, 0, 0, 0xAA, 0x1F, 0xFF]],
      reply.length ≤ s.cfg.rxqCap ∧ reply.length ≤ s.cfg.rxbufCap ∧
      (∃ body : List Byte, reply = body ++ [s.cfg.esc, s.cfg.eom]) ∧
      ∀ n : Nat, 2 ≤ n → n < reply.length →
        ¬(reply.getD (n - 2) 0 = s.cfg.esc ∧ reply.getD (n - 1) 0 = s.cfg.eom) := by
  intro p s
  refine ⟨⟨rfl, rfl, rfl, rfl, by decide, rfl, rfl, by decide, by decide⟩, ?_⟩
  intro reply h
  simp only [List.mem_cons, List.not_mem_nil, or_false] at h
  rcases h with rfl | rfl | rfl
  · exact ⟨by decide, by decide, ⟨[0x1F, 0x7F, 0x92], rfl⟩, noEarlyEnd (by decide)⟩
  · exact ⟨by decide, by decide, ⟨[0x1F, 0x7F, 0x92, 0, 0], rfl⟩, noEarlyEnd (by decide)⟩
  · exact ⟨by decide, by decide, ⟨[0x1F, 0x7F, 0x92, 0, 0, 0xAA], rfl⟩, noEarlyEnd (by decide)⟩

/-- The bound of 10 ticks, exactly. -/
theorem witness_MissingTransmitCompleteTimesOut :
    let p := portRunning (.tc [0x0A])
    let s := stateOf p
    s.ports[0]? = some p ∧ p.ph = .run ∧ p.pos = .start ∧ fetch s p = .ok (.tc [0x0A]) ∧ [(0x0A : Byte)] ≠ [] ∧
      [(0x0A : Byte)].length ≤ s.cfg.maxPayload ∧ s.linkOwner = none ∧ s.txbuf.length = s.cfg.txbufCap ∧
      s.csr.txDoneTimeout.toNat ≤ 10 :=
  ⟨rfl, rfl, rfl, rfl, by decide, by decide, rfl, by decide, by decide⟩

theorem witness_BusyLinkIsAnsweredLinkBusy :
    let p := portRunning (.tm 0x92 4)
    let s : State := { stateOf p with linkOwner := some 1 }
    s.ports[0]? = some p ∧ p.ph = .run ∧ p.pos = .start ∧ fetch s p = .ok (.tm 0x92 4) ∧ s.linkOwner = some 1 ∧
      s.csr.linkAcqTimeout.toNat ≤ 10 :=
  ⟨rfl, rfl, rfl, rfl, rfl, by decide⟩

/-- The start, and the wait with the lock free, and owned at the bound. -/
theorem witness_SessionLockIsTakenOrBusy :
    (stateOf (portAt .start)).actsAt (portAt .start) .start ∧ (40 : Word) ≠ 0 ∧ (40 : Half) ≠ 0 ∧
      (stateOf (portAt .session)).actsAt (portAt .session) .session ∧ (stateOf (portAt .session)).sessionOwner = none ∧
      State.boundPassed { stateOf { portAt .session with bound := 10 } with sessionOwner := some 1, now := 10 }
        { portAt .session with bound := 10 } :=
  ⟨acts _, by decide, by decide, acts _, rfl, by unfold State.boundPassed; decide⟩

/-- A block of 80 bytes needs the 4 packets that the hole map allows; one of 81 needs 5. -/
theorem witness_SessionIsCreated :
    (stateOf (portAt .create)).actsAt (portAt .create) .create ∧
      ceilDiv (80 : Half).toNat (stateOf (portAt .create)).csr.pktDataLen.toNat ≤ small.holeMapBits ∧
      small.holeMapBits < ceilDiv (81 : Half).toNat (stateOf (portAt .create)).csr.pktDataLen.toNat :=
  ⟨acts _, by decide, by decide⟩

/-- Either answer; a file that is not there and one that is. -/
theorem witness_SinkOpenDecidesTheSession :
    (stateOf (portAt .opening)).actsAt (portAt .opening) .opening ∧
      (∀ ok : Bool, sinkDraw { stateOf (portAt .opening) with sinkAnswers := [ok] } =
        (ok, { stateOf (portAt .opening) with sinkAnswers := [] })) ∧
      fileContent (stateOf (portAt .opening)) ⟨2, 7⟩ = none ∧ fileContent (burst (portAt .opening)) ⟨2, 7⟩ ≠ none :=
  ⟨acts _, fun _ => rfl, by decide, by decide⟩

theorem witness_SinkAnswersAreDrawn :
    State.sinkAnswers { stateOf Port.reset with sinkAnswers := [false] } = [false] ∧ (stateOf Port.reset).sinkAnswers = [] :=
  ⟨rfl, rfl⟩

/-- The three positions; no budget, a budget of 1 with 1 and with 0 polls left. -/
theorem witness_DownloadConversationsBegin :
    (stateOf (portAt .request)).actsAt (portAt .request) .request ∧ (stateOf (portAt .burst)).actsAt (portAt .burst) .burst ∧
      (stateOf (portAt .poll)).actsAt (portAt .poll) .poll ∧ (stateOf (portAt .poll)).dlPolls = 0 ∧
      (State.actsAt { stateOf (portAt .poll) with dlPolls := 1, polls := 1 } (portAt .poll) .poll ∧ (1 : Word) ≠ 0) ∧
      State.actsAt { stateOf (portAt .poll) with dlPolls := 1, polls := 0 } (portAt .poll) .poll :=
  ⟨acts _, acts _, acts _, rfl, ⟨⟨rfl, rfl, rfl⟩, by decide⟩, rfl, rfl, rfl⟩

/-- The largest offset and the largest packet data length that the encodings hold. -/
theorem witness_DownloadConversationsCarryTheDeviceMessages :
    small.encoders = .standard ∧ State.dlOffset { burst (portAt .request) with dlOffset := 4294967295 } < 4294967296 ∧
      State.fdeState { burst (portAt .request) with fdeState := .blockRequested } = .blockRequested ∧
      State.fdeState { burst (portAt .request) with fdeState := .blockReady } = .blockReady ∧
      (burst (portAt .request)).fdeState = .burstInProgress ∧ (255 : Word).toNat < 256 := by decide

/-- With the default encoders, and with external ones and the smallest `MAX_PAYLOAD`. -/
theorem witness_DeviceMessagesKeepTheirContract :
    small.legal = true ∧
      Params.legal { standard with encoders := .external, maxPayload := 1, tmLenBlockStatus := 1 } = true := by decide

/-- A return in each state of the engine: OK and not OK, a poll reply of 4 and of 5 bytes, each pair of flags. -/
theorem witness_DownloadConversationsReturn :
    (stateOf (portAt .ret)).actsAt (portAt .ret) .ret ∧ (portAt .ret).ret.status = .ok ∧
      State.actsAt (stateOf { portAt .ret with ret := ⟨.linkBusy, []⟩ }) { portAt .ret with ret := ⟨.linkBusy, []⟩ } .ret ∧
      ([(1 : Byte), 0, 0, 0].length < small.tmLenBlockStatus ∧ small.tmLenBlockStatus ≤ [(1 : Byte), 0, 0, 0, 0].length) ∧
      decBlockStatus small [1, 0, 0, 0, 0] = (true, false) ∧ decBlockStatus small [2, 0, 0, 0, 0] = (false, true) ∧
      decBlockStatus small [0, 0, 0, 0, 0] = (false, false) ∧ decBlockStatus small [3, 0, 0, 0, 0] = (true, true) :=
  ⟨acts _, rfl, ⟨rfl, rfl, rfl⟩, by decide, by decide, by decide, by decide, by decide⟩

/-- `i` below and at `npk`; a try left and none; the queue empty at the bound; one byte before the last of a packet of
eight, and the last. -/
theorem witness_PacketReadIsRetriedThenFails :
    ((burst (portAt .loop)).actsAt (portAt .loop) .loop ∧ (burst (portAt .loop)).idx < (burst (portAt .loop)).npk) ∧
      State.npk { burst (portAt .loop) with idx := 2 } ≤ State.idx { burst (portAt .loop) with idx := 2 } ∧
      ((burst (portAt .attempt)).actsAt (portAt .attempt) .attempt ∧ (burst (portAt .attempt)).tries = 0 ∧
        0 < State.tries { burst (portAt .attempt) with tries := 1 }) ∧
      ((burst (portAt .packet)).actsAt (portAt .packet) .packet ∧ (burst (portAt .packet)).rxq = []) ∧
      State.boundPassed { burst (portAt .packet) with now := 10 } { portAt .packet with bound := 10 } ∧
      ∀ k : Nat, State.actsAt { burst { portAt .packet with k := k } with rxq := [9] } { portAt .packet with k := k } .packet ∧
        (k = 6 → k + 1 < 5 + (burst (portAt .packet)).dlPdl.toNat + small.pktTrlLen) ∧
        (k = 7 → k + 1 = 5 + (burst (portAt .packet)).dlPdl.toNat + small.pktTrlLen) :=
  ⟨⟨⟨rfl, rfl, rfl⟩, by decide⟩, by decide, ⟨⟨rfl, rfl, rfl⟩, rfl, by decide⟩, ⟨⟨rfl, rfl, rfl⟩, rfl⟩,
    by unfold State.boundPassed; decide, fun _ => ⟨⟨rfl, rfl, rfl⟩, fun h => by subst h; decide, fun h => by subst h; decide⟩⟩

/-- The packet with counter 1 of a burst with one data byte: `id`, counter, reserved, data, trailer. -/
def packet1 : List Byte := [0x50, 1, 0, 0, 0, 0xBB, 0, 0]

theorem witness_WholePacketIsReadIntoTheBuffer :
    let s : State := { burst (portAt .attempt) with tries := 1, rxq := packet1 ++ [9] }
    s.actsAt (portAt .attempt) .attempt ∧ 0 < s.tries ∧ packet1.length = s.cfg.pktLen s.dlPdl.toNat ∧
      s.rxq = packet1 ++ [9] ∧ packet1.length ≤ s.pktbuf.length :=
  ⟨⟨rfl, rfl, rfl⟩, by decide, by decide, rfl, by decide⟩

/-- Counter 0 with index 1 expected, and with index 0 expected. -/
theorem witness_RegressingCounterAborts :
    (burst (portAt .check)).actsAt (portAt .check) .check ∧
      packetCounter small (burst (portAt .check)).pktbuf < State.idx { burst (portAt .check) with idx := 1 } ∧
      (burst (portAt .check)).idx ≤ packetCounter small (burst (portAt .check)).pktbuf :=
  ⟨⟨rfl, rfl, rfl⟩, by decide, by decide⟩

/-- Nothing left; a write that is accepted; one that is not. -/
theorem witness_OneIndexIsWrittenOrAborts :
    (burst (portAt .deliver)).actsAt (portAt .deliver) .deliver ∧
      ((burst (portAt .deliver)).pktbuf.drop 5).take (min 1 0) = [] ∧
      ((burst (portAt .deliver)).pktbuf.drop 5).take (min 1 2) ≠ [] ∧
      (∀ ok : Bool, sinkDraw { burst (portAt .deliver) with sinkAnswers := [ok] } =
        (ok, { burst (portAt .deliver) with sinkAnswers := [] })) ∧
      (burst (portAt .deliver)).sink.cur = some ⟨2, 7⟩ :=
  ⟨⟨rfl, rfl, rfl⟩, by decide, by decide, fun _ => rfl, rfl⟩

theorem witness_GapFillHasItsClosedForm :
    let s : State := { burst (portAt .deliver) with seq := 1, sinkAnswers := [true, true, false] }
    s.actsAt (portAt .deliver) .deliver ∧ s.idx ≤ s.seq ∧ 1 ≤ s.dlPdl.toNat ∧ s.sink.cur = some ⟨2, 7⟩ ∧
      5 + s.dlPdl.toNat ≤ s.pktbuf.length ∧ fileContent s ⟨2, 7⟩ = some [] ∧
      s.sinkAnswers = List.replicate (min (s.seq - s.idx + 1) (ceilDiv s.rem s.dlPdl.toNat)) true ++ [false] :=
  ⟨⟨rfl, rfl, rfl⟩, by decide, by decide, rfl, by decide, by decide, by decide⟩

/-- The burst of S8: packet 0 was dropped, packet 1 arrives. -/
theorem witness_BurstReconstructsTheBlock :
    let s : State := { burst (portAt .loop) with rxq := packet1 ++ [9], sinkAnswers := [true, true] }
    s.actsAt (portAt .loop) .loop ∧ 1 ≤ s.dlPdl.toNat ∧ s.npk = ceilDiv s.dlBlockLen.toNat s.dlPdl.toNat ∧
      s.rem + min (s.idx * s.dlPdl.toNat) s.dlBlockLen.toNat = s.dlBlockLen.toNat ∧
      s.cfg.pktLen s.dlPdl.toNat ≤ s.pktbuf.length ∧ s.cfg.pktSeqOff + 1 < 5 ∧ s.sink.cur = some ⟨2, 7⟩ ∧
      fileContent s ⟨2, 7⟩ = some [] ∧ burstRun s.cfg s.dlPdl.toNat s.npk s.idx [packet1] ∧
      s.rxq = [packet1].flatten ++ [9] ∧ s.sinkAnswers = List.replicate (s.npk - s.idx) true ++ [] :=
  ⟨⟨rfl, rfl, rfl⟩, by decide, by decide, by decide, by decide, by decide, rfl, by decide,
    by simp only [burstRun]; decide, rfl, by decide⟩

/-- Position 0 has no packet, position 1 has packet 1. -/
theorem witness_BlockByteIsPacketDataOrFill :
    2 = ceilDiv 2 1 ∧ burstRun small 1 2 0 [packet1] ∧ (∀ d ∈ [packet1], packetCounter small d ≠ 0 / 1) ∧
      (∃ d ∈ [packet1], packetCounter small d = 1 / 1) :=
  ⟨by decide, by simp only [burstRun]; decide, by decide, by decide⟩

/-- Either answer of the close. -/
theorem witness_CompletedBlocksEndTheDownload :
    (stateOf (portAt .blockEnd)).actsAt (portAt .blockEnd) .blockEnd ∧ (stateOf (portAt .close)).actsAt (portAt .close) .close ∧
      ∀ ok : Bool, sinkDraw { stateOf (portAt .close) with sinkAnswers := [ok] } =
        (ok, { stateOf (portAt .close) with sinkAnswers := [] }) := ⟨acts _, acts _, fun _ => rfl⟩

/-- The sink open and not. -/
theorem witness_AbortReleasesEverything :
    (burst (portAt .abort)).actsAt (portAt .abort) .abort ∧ (burst (portAt .abort)).sinkOpen = true ∧
      (stateOf (portAt .abort)).actsAt (portAt .abort) .abort ∧ (stateOf (portAt .abort)).sinkOpen = false ∧
      sinkDraw { burst (portAt .abort) with sinkAnswers := [false] } = (false, burst (portAt .abort)) :=
  ⟨⟨rfl, rfl, rfl⟩, rfl, acts _, rfl, rfl⟩

/-- 15 bytes in a queue of 16, and 16. -/
theorem witness_EventsAreAlwaysEnabled :
    (List.replicate 15 (0 : Byte)).length < small.rxqCap ∧ small.rxqCap ≤ (List.replicate 16 (0 : Byte)).length := by decide

theorem witness_HostIssuesAndCollects :
    (stateOf Port.reset).ports[0]? = some Port.reset ∧ Port.reset.ph = .idle ∧
      (stateOf (portIn .done)).ports[0]? = some (portIn .done) ∧ (portIn .done).ph = .done := by decide

theorem witness_StepRunsTheDecodedOperation :
    let p := portRunning (.csrr 0x05)
    let s : State := { stateOf p with schedule := [.port 0] }
    s.cfg.legal = true ∧ s.schedule = [.port 0] ∧ s.ports[0]? = some p ∧ p.ph ≠ .idle ∧ p.ph ≠ .done ∧
      decode s.cfg.descCap p.descLen p.desc = .ok (.csrr 0x05) :=
  ⟨by decide, rfl, rfl, by decide, by decide, rfl⟩

/-- A port that exists; each of the five waits, its event absent, one tick short of its bound. -/
theorem witness_EveryOperationAnswersANextState :
    (stateOf (portAt .start)).ports[(stateOf (portAt .start)).actor]? = some (portAt .start) ∧
      (∀ ph : Phase, State.actsIn { stateOf (portWaiting ph 10) with linkOwner := some 1, now := 9 } (portWaiting ph 10) ph ∧
        ¬State.boundPassed { stateOf (portWaiting ph 10) with linkOwner := some 1, now := 9 } (portWaiting ph 10) ∧
        (portWaiting ph 10).waiting = true ∧ (stateOf (portWaiting ph 10)).txDone = false ∧
        (stateOf (portWaiting ph 10)).rxq = []) ∧
      callOf (stateOf (portWaiting .receive 10)) (.tm 0x92 4) = some (tmCall 0x92 4) ∧
      ∀ pos : RunPos, State.actsAt { stateOf { portAt pos with bound := 10 } with sessionOwner := some 1, now := 9 }
          { portAt pos with bound := 10 } pos ∧
        ¬State.boundPassed { stateOf { portAt pos with bound := 10 } with sessionOwner := some 1, now := 9 }
          { portAt pos with bound := 10 } := by
  refine ⟨rfl, fun ph => ⟨⟨rfl, rfl⟩, ?_, rfl, rfl, rfl⟩, rfl, fun pos => ⟨⟨rfl, rfl, rfl⟩, ?_⟩⟩
  · show ¬10 ≤ 9 - 0
    decide
  · show ¬10 ≤ 9 - 0
    decide

theorem witness_EveryStepKeepsTheMemoryForm : ∃ s t : State, Memory.wf s = true ∧ step s = .next t :=
  ⟨{ stateOf Port.reset with schedule := [.rx 0x55] }, _, by decide, rfl⟩

/-- A telecommand in its transmit phase, owning the link, beside an idle port. -/
def sending : State :=
  { stateOf { portRunning (.tc [0x0A]) with ph := .transmit } with linkOwner := some 0, schedule := [.port 0] }

theorem sending_lockInv : sending.lockInv := by
  refine ⟨⟨?_, ?_⟩, ?_, ?_, ?_, ?_⟩
  · rintro (_ | _ | c) p hp
    · intro _; rfl
    · cases hp; intro h; cases h
    · cases hp
  · intro c hc; cases hc
    exact ⟨_, rfl, .inl rfl⟩
  · rintro (_ | _ | c) p hp
    · cases hp; decide
    · cases hp; decide
    · cases hp
  · intro c hc; cases hc
  · intro _; exact ⟨rfl, rfl⟩
  · intro c p _ hc; cases hc

theorem witness_EveryStepKeepsTheLocks : ∃ s t : State, s.lockInv ∧ step s = .next t :=
  ⟨sending, _, sending_lockInv, rfl⟩

theorem witness_EveryStepKeepsTheRunInvariant : ∃ s t : State, s.runInv ∧ step s = .next t := by
  refine ⟨sending, _, ⟨?_, ?_, sending_lockInv, ?_, ?_, ?_⟩, rfl⟩
  · unfold State.csrLegal; decide
  · rintro (_ | _ | c) p i hp hf h1
    · cases hp; cases hf; intro _ _; rfl
    · cases hp; exact absurd rfl h1
    · cases hp
  · intro c p _ hc; cases hc
  · unfold State.widthInv; decide
  · refine ⟨by decide, ?_⟩
    rintro (_ | _ | c) p i call hp h
    · cases hp; cases h
    · cases hp; cases h
    · cases hp

theorem witness_StateAfterResetIsCleanAndInvariant : small.legal = true := small_legal

/-- A state that has ended, so with an idle port, and one whose port is done; a TC outside its conversation. -/
theorem witness_EveryExitFreesTheLocks :
    (∃ s : State, s.lockInv ∧ s.ended ∧ s.ports[0]? = some Port.reset ∧ Port.reset.ph = .idle) ∧
    (∃ s : State, s.lockInv ∧ s.ports[0]? = some (portIn .done) ∧ (portIn .done).ph = .done) ∧
    ∃ (s : State) (p : Port), s.lockInv ∧ s.ports[0]? = some p ∧ p.ph = .run ∧ fetch s p = .ok (.tc [0x0A]) := by
  have idle : ∀ s : State, s.linkOwner = none → s.sessionOwner = none → s.fdeState = .idle → s.sinkOpen = false →
      (∀ (c : Nat) (p : Port), s.ports[c]? = some p → p.ph.ownsLink = false ∧ inSession s p = false) → s.lockInv := by
    intro s h1 h2 h3 h4 h
    refine ⟨⟨fun c p hp ho => ?_, fun c hc => ?_⟩, fun c p hp => ?_, fun c hc => ?_, fun _ => ⟨h3, h4⟩,
      fun c p _ hc => ?_⟩
    · rw [(h c p hp).1] at ho; cases ho
    · rw [h1] at hc; cases hc
    · rw [(h c p hp).2, h2]; simp
    · rw [h2] at hc; cases hc
    · rw [h2] at hc; cases hc
  refine ⟨⟨stateOf Port.reset, idle _ rfl rfl rfl rfl ?_, ?_, rfl, rfl⟩,
    ⟨stateOf (portIn .done), idle _ rfl rfl rfl rfl ?_, rfl, rfl⟩,
    stateOf (portRunning (.tc [0x0A])), _, idle _ rfl rfl rfl rfl ?_, rfl, rfl, rfl⟩
  · rintro (_ | _ | c) p hp
    · cases hp; decide
    · cases hp; decide
    · cases hp
  · unfold State.ended; decide
  · rintro (_ | _ | c) p hp
    · cases hp; decide
    · cases hp; decide
    · cases hp
  · rintro (_ | _ | c) p hp
    · cases hp; decide
    · cases hp; decide
    · cases hp

theorem witness_RegistersChangeOnlyForTheirLockOwner : ∃ s t : State, s.lockInv ∧ s.move ≠ .reset ∧ step s = .next t :=
  ⟨sending, _, sending_lockInv, by decide, rfl⟩

/-- A write by the receive loop, and the opening of a file that exists. -/
theorem witness_SinkIsAppendOnly :
    (∃ s t : State, step s = .next t ∧ fileContent s ⟨2, 7⟩ = some []) ∧
    ∃ s t : State, step s = .next t ∧ fileContent s ⟨2, 7⟩ = some [] ∧ s.move = .port 0 ∧
      s.ports[0]?.map (·.pos) = some .opening :=
  ⟨⟨{ burst { portRunning (.dl 2 7 2 2) with pos := .deliver } with sinkAnswers := [true], schedule := [.port 0] }, _, rfl,
      by decide⟩,
    { burst { portRunning (.dl 2 7 2 2) with pos := .opening } with sinkAnswers := [true], schedule := [.port 0] }, _, rfl,
      by decide, by decide, by decide⟩

theorem witness_ReceiveQueueIsFifo : ∃ s t : State, step s = .next t ∧ s.move = .rx 0x55 :=
  ⟨{ stateOf Port.reset with schedule := [.rx 0x55] }, _, rfl, rfl⟩

theorem witness_PortStepTouchesNoOtherPort : ∃ s t : State, s.move = .port 0 ∧ step s = .next t :=
  ⟨sending, _, rfl, rfl⟩

end Sys2Proof.Tests
end

section
/-! PROOFS of the statements of 00_scope.md: a scheduled port's step. -/

namespace Sys2Proof.Machine

open Sys2Proof

/-- R29, R103: a busy port runs the operation that its latched descriptor decodes to. -/
theorem runPort_busy {c : Nat} {s : State} {p : Port} {i : Instr} (hp : s.ports[c]? = some p)
    (hidle : p.ph ≠ .idle) (hdone : p.ph ≠ .done) (hi : fetch s p = .ok i) :
    runPort c s = exec i { s with actor := c } := by
  simp [runPort, hp, hidle, hdone, hi]

/-- R287: a port waits for its issue (`IDLE`) or for its collect (`DONE`); its own move changes nothing (log 5). -/
theorem runPort_idle_or_done {c : Nat} {s : State} {p : Port} (hp : s.ports[c]? = some p)
    (hph : p.ph = .idle ∨ p.ph = .done) : runPort c s = .next s := by
  simp [runPort, hp, hph]

/-- The first move of the schedule is port `c`'s: it is taken off, then the port runs (R13). -/
theorem step_port {c : Nat} {s : State} {rest : List Move} (hl : s.cfg.legal = true)
    (hs : s.schedule = .port c :: rest) : step s = runPort c { s with schedule := rest } :=
  step_scheduled hl hs

/-- Settles O49: the port's move is its `runPort`, split by whether the port is busy. The ports, the configuration and so
the fetched operation are not changed by taking the move off the schedule. -/
theorem stepRunsTheDecodedOperation : Obligations.StepRunsTheDecodedOperation := by
  intro s c p rest hl hs hp
  rw [step_port hl hs]
  exact ⟨fun _ hidle hdone hi => runPort_busy hp hidle hdone hi, runPort_idle_or_done hp⟩

end Sys2Proof.Machine
end

section
/-! PROOFS of the statements of 10_state.md, part 1: the STATUS word, the sink's answers, issue and collect, and what
one step of a port changes and leaves alone. -/

namespace Sys2Proof.Machine

open Sys2Proof Sys2Proof.Config

/-! ## The STATUS word (R46) -/

theorem FdeState.code_le (f : FdeState) : f.code ≤ 4 := by cases f <;> decide

/-- The flags fit their bits, so the word does not wrap. -/
theorem statusWord_toNat (s : State) :
    (statusWord s).toNat =
      s.linkOwner.isSome.toNat + 2 * s.sessionOwner.isSome.toNat + 4 * s.txDone.toNat + 8 * s.rxOverflow.toNat +
        16 * s.fdeState.code + 128 * s.sinkOpen.toNat := by
  have hlink := s.linkOwner.isSome.toNat_le
  have hsession := s.sessionOwner.isSome.toNat_le
  have htx := s.txDone.toNat_le
  have hrx := s.rxOverflow.toNat_le
  have hsink := s.sinkOpen.toNat_le
  have hfde := s.fdeState.code_le
  rw [statusWord, BitVec.toNat_ofNat]
  omega

/-- A bit of a word is the flag `b` when its digit is. -/
theorem getLsbD_eq_of_digit {v : Word} {k : Nat} {b : Bool} (h : v.toNat / 2 ^ k % 2 = b.toNat) : v.getLsbD k = b := by
  rw [← BitVec.testBit_toNat, Nat.testBit_eq_decide_div_mod_eq, h]
  cases b <;> rfl

/-- Settles O15: every flag is a binary digit of `statusWord_toNat`, `fde_state` the octal digit above bit 3. -/
theorem statusWordShowsTheFlags : Obligations.StatusWordShowsTheFlags := by
  intro s
  have hword := statusWord_toNat s
  have hlink := s.linkOwner.isSome.toNat_le
  have hsession := s.sessionOwner.isSome.toNat_le
  have htx := s.txDone.toNat_le
  have hrx := s.rxOverflow.toNat_le
  have hsink := s.sinkOpen.toNat_le
  have hfde := s.fdeState.code_le
  refine ⟨getLsbD_eq_of_digit (by omega), getLsbD_eq_of_digit (by omega), getLsbD_eq_of_digit (by omega),
    getLsbD_eq_of_digit (by omega), ?_, getLsbD_eq_of_digit (by omega), fun k hk => ?_⟩
  · have hcode : ((statusWord s).extractLsb' 4 3).toNat = s.fdeState.code := by
      rw [BitVec.extractLsb'_toNat, Nat.shiftRight_eq_div_pow]
      omega
    rw [hcode]
    cases s.fdeState <;> rfl
  · have hpow : 2 ^ 8 ≤ 2 ^ k := Nat.pow_le_pow_right (by decide) hk
    exact getLsbD_eq_of_digit (by rw [Nat.div_eq_of_lt (by omega)]; rfl)

/-! ## The sink's answers (R52), issue and collect (R29) -/

/-- With no answer settled the next one is drawn (log 9). -/
theorem sinkDraw_unsettled {s : State} (h : s.sinkAnswers = []) :
    sinkDraw s = (sinkAnswer s.draws, { s with draws := s.draws + 1 }) := by
  simp [sinkDraw, h]

/-- Settles O33, by the two cases of the settled answers. -/
theorem sinkAnswersAreDrawn : Obligations.SinkAnswersAreDrawn :=
  fun _ => ⟨fun _ _ h => sinkDraw_settled h, fun h => ⟨_, sinkDraw_unsettled h⟩⟩

theorem issue_eq {s : State} {c : Nat} {p : Port} (d : List Byte) (hp : s.ports[c]? = some p) :
    issue c d s =
      if p.ph = .idle then .next { s with
        ports := s.ports.set c { p.runAt .start with desc := d.take s.cfg.descCap, descLen := d.length } }
      else .fault .stuckIssue := by
  simp [issue, hp]

theorem collect_eq {s : State} {c : Nat} {p : Port} (hp : s.ports[c]? = some p) :
    collect c s =
      if p.ph = .done then
        .next { s with ports := s.ports.set c (p.enter .idle), collected := s.collected ++ [(c, p.rsp)] }
      else .fault .stuckCollect := by
  simp [collect, hp]

/-- Settles O48, by the phase of the port. -/
theorem hostIssuesAndCollects : Obligations.HostIssuesAndCollects := by
  intro s c p d hp
  refine ⟨fun h => ?_, fun h => ?_, fun h => ?_, fun h => ?_⟩
  · exact (issue_eq d hp).trans (if_pos h)
  · exact (issue_eq d hp).trans (if_neg h)
  · exact (collect_eq hp).trans (if_pos h)
  · exact (collect_eq hp).trans (if_neg h)

/-! ## One step of a busy port -/

/-- The port's latched descriptor is a download's. -/
def RunsDl (s : State) (p : Port) : Prop := ∃ type counter size blen, fetch s p = .ok (.dl type counter size blen)

/-- What the fetch reads: the latch, the length presented and the configuration. -/
theorem fetch_congr {s t : State} {p q : Port} (hcfg : t.cfg = s.cfg) (hdesc : q.desc = p.desc)
    (hlen : q.descLen = p.descLen) : fetch t q = fetch s p := by
  simp only [fetch, hcfg, hdesc, hlen]

/-- Every step the acting port `p` can take, by the part of the machine that takes it. -/
inductive PortStep (s : State) (p : Port) : State → Prop
  /-- no step is enabled -/
  | stay : PortStep s p s
  /-- the operation, or the answer to an illegal descriptor, completes in one step -/
  | answer (st : Status) (data : List Byte) (csr : Csrs) (ov : Bool) (d : Nat) (hph : p.ph = .run)
      (hpos : p.pos = .start)
      (hcsr : csr = s.csr ∨ ∃ (r : Csr) (v : Word), r.writeLegal s.cfg v = true ∧ csr = csrWrite s.csr r v) :
      PortStep s p (({ s with csr := csr, rxOverflow := ov, draws := d } : State).putPort (p.finish st data))
  /-- TC, TCNR or TM begins its conversation -/
  | begin (hph : p.ph = .run) (hpos : p.pos = .start) (hdl : ¬RunsDl s p)
      (hlegal : ∀ i, fetch s p = .ok i → i.operandsLegal s.cfg = true) : PortStep s p (beginConverse s p)
  /-- TC, TCNR or TM responds with what its conversation returned -/
  | respond (st : Status) (data : List Byte) (hph : p.ph = .run) (hpos : p.pos = .ret) (hdl : ¬RunsDl s p) :
      PortStep s p (respond s p st data)
  /-- a step inside a conversation -/
  | converse {i : Instr} {call : Call} {t : State} (hph : p.ph ≠ .run) (hi : fetch s p = .ok i)
      (hcall : callOf s i = some call) (h : converse call s p = .next t) : PortStep s p t
  /-- a step of the download engine outside its conversations -/
  | download {type counter : Byte} {size : Word} {blen : Half} {t : State} (hph : p.ph = .run)
      (hi : fetch s p = .ok (.dl type counter size blen)) (h : dlRun type counter size blen s p = .next t) :
      PortStep s p t

/-- An operation that completes in one step answers or does nothing; what its body does to the control registers is told
by the body alone. -/
theorem portStep_of_oneStep {s t : State} {p : Port} {body : Port → State} (hp : s.ports[s.actor]? = some p)
    (hbody : ∃ st data csr ov d,
      body p = ({ s with csr := csr, rxOverflow := ov, draws := d } : State).putPort (p.finish st data))
    (hcsr : (body p).csr = s.csr ∨
      ∃ (r : Csr) (v : Word), r.writeLegal s.cfg v = true ∧ (body p).csr = csrWrite s.csr r v)
    (h : oneStep s body = .next t) : PortStep s p t := by
  obtain ⟨q, hq, h⟩ := oneStep_next h
  obtain rfl : p = q := Option.some.inj (hp.symm.trans hq)
  rcases h with ⟨hph, hpos, rfl⟩ | rfl
  · obtain ⟨st, data, csr, ov, d, hbody⟩ := hbody
    rw [hbody] at hcsr ⊢
    exact .answer st data csr ov d hph hpos hcsr
  · exact .stay

/-- A response changes no register but the port's: a special answer. -/
theorem portStep_raiseError {s : State} {p : Port} (st : Status) (hph : p.ph = .run) (hpos : p.pos = .start) :
    PortStep s p (raiseError s p st) :=
  .answer st [] s.csr s.rxOverflow s.draws hph hpos (.inl rfl)

/-- A step of TC, TCNR or TM. -/
theorem portStep_of_converseOperation {i : Instr} {call : Call} {s t : State} {p : Port}
    (hp : s.ports[s.actor]? = some p) (hi : fetch s p = .ok i) (hdl : ¬RunsDl s p) (hcall : callOf s i = some call)
    (h : converseOperation i call s = .next t) : PortStep s p t := by
  obtain ⟨q, hq, h⟩ := converseOperation_next h
  obtain rfl : p = q := Option.some.inj (hp.symm.trans hq)
  rcases h with rfl | ⟨hph, hpos, hlegal, rfl⟩ | ⟨hph, hpos, _, rfl⟩ | ⟨hph, hpos, rfl⟩ | ⟨hph, h⟩
  · exact .stay
  · refine .begin hph hpos hdl fun j hj => ?_
    obtain rfl : i = j := Except.ok.inj (hi.symm.trans hj)
    exact hlegal
  · exact portStep_raiseError _ hph hpos
  · exact .respond _ _ hph hpos hdl
  · exact .converse hph hi hcall h

/-- A step of DL. -/
theorem portStep_of_execDl {type counter : Byte} {size : Word} {blen : Half} {s t : State} {p : Port}
    (hp : s.ports[s.actor]? = some p) (hi : fetch s p = .ok (.dl type counter size blen))
    (h : execDl type counter size blen s = .next t) : PortStep s p t := by
  obtain ⟨q, hq, h⟩ := execDl_next h
  obtain rfl : p = q := Option.some.inj (hp.symm.trans hq)
  rcases h with rfl | ⟨hph, h⟩ | ⟨hph, call, hcall, h⟩
  · exact .stay
  · exact .download hph hi h
  · exact .converse hph hi hcall h

theorem not_runsDl {s : State} {p : Port} {i : Instr} (hi : fetch s p = .ok i)
    (h : ∀ type counter size blen, i ≠ .dl type counter size blen) : ¬RunsDl s p := by
  rintro ⟨type, counter, size, blen, hdl⟩
  exact h type counter size blen (Except.ok.inj (hi.symm.trans hdl))

/-- Every step of the operation a port has latched is a `PortStep`. -/
theorem portStep_of_exec {i : Instr} {s t : State} {p : Port} (hp : s.ports[s.actor]? = some p)
    (hi : fetch s p = .ok i) (h : exec i s = .next t) : PortStep s p t := by
  cases i with
  | stuff payload => exact portStep_of_oneStep hp stuff_body (.inl (by split <;> rfl)) h
  | destuff q =>
    refine portStep_of_oneStep hp destuff_body (.inl ?_) h
    split
    · rfl
    · split <;> rfl
  | tc payload => exact portStep_of_converseOperation hp hi (not_runsDl hi (by simp)) rfl h
  | tcnr payload => exact portStep_of_converseOperation hp hi (not_runsDl hi (by simp)) rfl h
  | tm tlmId req => exact portStep_of_converseOperation hp hi (not_runsDl hi (by simp)) rfl h
  | dl type counter size blen => exact portStep_of_execDl hp hi h
  | csrw index v =>
    refine portStep_of_oneStep hp csrw_body ?_ h
    split
    case h_1 => exact .inl rfl
    case h_2 r _ =>
      split
      case isTrue hlegal =>
        unfold csrwBody clearOverflow
        split_ifs
        · exact .inl rfl
        · exact .inl rfl
        · exact .inl rfl
        · exact .inl rfl
        · exact .inr ⟨r, v, hlegal, rfl⟩
      case isFalse => exact .inl rfl
  | csrr index =>
    refine portStep_of_oneStep hp csrr_body (.inl ?_) h
    split
    case h_1 => rfl
    case h_2 r _ => rcases drawView_cases s r with hd | hd <;> rw [hd] <;> rfl

/-- A port's move does nothing, or is a step of that busy port. -/
theorem portStep_of_runPort {c : Nat} {s t : State} (h : runPort c s = .next t) :
    t = s ∨ ∃ p, s.ports[c]? = some p ∧ p.ph ≠ .idle ∧ p.ph ≠ .done ∧ PortStep { s with actor := c } p t := by
  rcases runPort_next h with rfl | ⟨p, hp, hidle, hdone, ⟨i, hi, h⟩ | ⟨e, _, hph, hpos, rfl⟩⟩
  · exact .inl rfl
  · exact .inr ⟨p, hp, hidle, hdone, portStep_of_exec hp hi h⟩
  · exact .inr ⟨p, hp, hidle, hdone, portStep_raiseError _ hph hpos⟩

/-! ## What a port's step leaves alone -/

/-- What no step of a port changes: the parameters, the clock, the hole map and the collected responses (R28, R36,
R54). -/
structure PortFrame (s t : State) : Prop where
  cfg : t.cfg = s.cfg
  now : t.now = s.now
  holeMap : t.holeMap = s.holeMap
  collected : t.collected = s.collected

/-- A port's step writes only its own port's registers, keeps the descriptor, and leaves the operation's first position
only for a response or with legal operands (R114). -/
theorem portStep_frame {s t : State} {p : Port} (hp : s.ports[s.actor]? = some p) (h : PortStep s p t) :
    PortFrame s t ∧ ∃ p', t.ports = s.ports.set s.actor p' ∧ p'.desc = p.desc ∧ p'.descLen = p.descLen ∧
      (p.ph = .run → p.pos = .start →
        p' = p ∨ p'.ph = .done ∨ ∀ i, fetch s p = .ok i → i.operandsLegal s.cfg = true) := by
  cases h with
  | stay => exact ⟨⟨rfl, rfl, rfl, rfl⟩, p, (set_self hp).symm, rfl, rfl, fun _ _ => .inl rfl⟩
  | answer => exact ⟨⟨rfl, rfl, rfl, rfl⟩, _, rfl, rfl, rfl, fun _ _ => .inr (.inl rfl)⟩
  | begin _ _ _ hlegal => exact ⟨⟨rfl, rfl, rfl, rfl⟩, _, rfl, rfl, rfl, fun _ _ => .inr (.inr hlegal)⟩
  | respond => exact ⟨⟨rfl, rfl, rfl, rfl⟩, _, rfl, rfl, rfl, fun _ _ => .inr (.inl rfl)⟩
  | converse hph _ _ h =>
    obtain ⟨_, _, _, _, _, _, _, _, _, p', rfl, hdesc, hlen, _⟩ := converse_frame hp h
    exact ⟨⟨rfl, rfl, rfl, rfl⟩, p', rfl, hdesc, hlen, fun hrun => absurd hrun hph⟩
  | download hph hi h =>
    obtain ⟨p', hports, hframe, hdesc, hlen, hstart⟩ := dlRun_frame hp h
    refine ⟨⟨hframe.cfg, hframe.now, hframe.holeMap, hframe.collected⟩, p', hports, hdesc, hlen, fun _ hpos => ?_⟩
    rcases hstart hpos with rfl | hlegal | hdone
    · exact .inl rfl
    · refine .inr (.inr fun i hj => ?_)
      obtain rfl := Except.ok.inj (hi.symm.trans hj)
      exact hlegal
    · exact .inr (.inl hdone)

/-- Settles O60: taking the move changes `schedule` and `draws` only; a port's step is framed by `portStep_frame`. -/
theorem portStepTouchesNoOtherPort : Obligations.PortStepTouchesNoOtherPort := by
  intro s t c hmove h
  obtain ⟨q, d, hnext⟩ := nextMove_frame s
  obtain ⟨_, h⟩ := step_next h
  have hc : (nextMove s).1 = .port c := hmove
  rw [hc, hnext] at h
  rcases portStep_of_runPort h with rfl | ⟨p, hp, _, _, h⟩
  · exact ⟨fun _ _ => rfl, rfl, rfl, rfl, rfl⟩
  · obtain ⟨hframe, p', hports, _⟩ := portStep_frame hp h
    refine ⟨fun e he => ?_, hframe.cfg, hframe.now, hframe.holeMap, hframe.collected⟩
    rw [hports]
    exact List.getElem?_set_ne (Ne.symm he)

end Sys2Proof.Machine
end

section
/-! PROOFS of the statements of 10_state.md, part 2: the staging buffers change only inside a conversation that owns the
link, the download's registers only in a download that owns the session. -/

namespace Sys2Proof.Machine

open Sys2Proof Sys2Proof.Config

/-! ## The registers each lock protects (R24, R30) -/

/-- The registers the link lock protects, and the wire, are unchanged. -/
structure SameStaging (s t : State) : Prop where
  txbuf : t.txbuf = s.txbuf
  txlen : t.txlen = s.txlen
  rxbuf : t.rxbuf = s.rxbuf
  rxcnt : t.rxcnt = s.rxcnt
  ack : t.ack = s.ack
  wireOut : t.wireOut = s.wireOut

/-- The registers the session lock protects, and the sink, are unchanged. -/
structure SameSession (s t : State) : Prop where
  fdeState : t.fdeState = s.fdeState
  sinkOpen : t.sinkOpen = s.sinkOpen
  dlType : t.dlType = s.dlType
  dlCounter : t.dlCounter = s.dlCounter
  dlSize : t.dlSize = s.dlSize
  dlOffset : t.dlOffset = s.dlOffset
  dlBlockLen : t.dlBlockLen = s.dlBlockLen
  dlPdl : t.dlPdl = s.dlPdl
  dlFill : t.dlFill = s.dlFill
  dlRetry : t.dlRetry = s.dlRetry
  dlPolls : t.dlPolls = s.dlPolls
  npk : t.npk = s.npk
  idx : t.idx = s.idx
  rem : t.rem = s.rem
  seq : t.seq = s.seq
  tries : t.tries = s.tries
  polls : t.polls = s.polls
  pktbuf : t.pktbuf = s.pktbuf
  sink : t.sink = s.sink

theorem SameStaging.refl (s : State) : SameStaging s s := by constructor <;> rfl

theorem SameSession.refl (s : State) : SameSession s s := by constructor <;> rfl

/-- Which port acts is no protected register. -/
theorem SameStaging.of_actor {s t : State} {c : Nat} (h : SameStaging { s with actor := c } t) : SameStaging s t := by
  cases h
  constructor <;> assumption

theorem SameSession.of_actor {s t : State} {c : Nat} (h : SameSession { s with actor := c } t) : SameSession s t := by
  cases h
  constructor <;> assumption

/-- The staging buffers change, and at most one frame leaves, in the link-owning phases only. -/
theorem converse_staging {call : Call} {s t : State} {p : Port} (h : converse call s p = .next t) :
    SameStaging s t ∨
      (p.ph.ownsLink = true ∧ ∃ more : List (List Byte), more.length ≤ 1 ∧ t.wireOut = s.wireOut ++ more) := by
  have silent {u : State} (hph : p.ph.ownsLink = true) (hwire : u.wireOut = s.wireOut) :
      SameStaging s u ∨
        (p.ph.ownsLink = true ∧ ∃ more : List (List Byte), more.length ≤ 1 ∧ u.wireOut = s.wireOut ++ more) :=
    .inr ⟨hph, [], by simp, by simpa using hwire⟩
  rcases converse_next h with rfl | ⟨_, _, rfl⟩ | ⟨_, _, _, rfl⟩ | ⟨hph, rfl⟩ | ⟨hph, _, rfl⟩ | ⟨hph, _, _, rfl⟩ |
    ⟨_, _, _, _, rfl⟩ | ⟨hph, _, b, q, _, rfl⟩ | ⟨hph, _, b, q, _, rfl⟩ | ⟨_, _, _, _, rfl⟩ | ⟨hph, rfl⟩
  · exact .inl (.refl t)
  · exact .inl (by constructor <;> rfl)
  · exact .inl (by constructor <;> rfl)
  · exact silent (by rw [hph]; rfl) (by unfold converseEncode; split <;> rfl)
  · exact .inr ⟨by rw [hph]; rfl, [s.txbuf.take s.txlen], by simp, rfl⟩
  · exact silent (by rw [hph]; rfl) (by unfold afterTxDone; split <;> rfl)
  · exact .inl (by constructor <;> rfl)
  · exact silent (by rw [hph]; rfl) (by unfold ackByte; dsimp only; split <;> rfl)
  · exact silent (by rw [hph]; rfl) (by unfold replyByte; dsimp only; split_ifs <;> rfl)
  · exact .inl (by constructor <;> rfl)
  · exact silent (by rw [hph]; rfl) (by unfold converseRelease; split <;> rfl)

/-- The staging buffers and the wire change only in a step of a port in a link-owning phase. -/
theorem portStep_staging {s t : State} {p : Port} (hp : s.ports[s.actor]? = some p) (h : PortStep s p t) :
    SameStaging s t ∨
      (p.ph.ownsLink = true ∧ ∃ more : List (List Byte), more.length ≤ 1 ∧ t.wireOut = s.wireOut ++ more) := by
  cases h with
  | stay => exact .inl (.refl s)
  | answer => exact .inl (by constructor <;> rfl)
  | begin => exact .inl (by constructor <;> rfl)
  | respond => exact .inl (by constructor <;> rfl)
  | converse _ _ _ h => exact converse_staging h
  | download _ _ h =>
    obtain ⟨_, _, hframe, _⟩ := dlRun_frame hp h
    exact .inl ⟨hframe.txbuf, hframe.txlen, hframe.rxbuf, hframe.rxcnt, hframe.ack, hframe.wireOut⟩

/-- What it is to run a download past its session wait. -/
theorem inSession_iff (s : State) (p : Port) :
    inSession s p = true ↔
      RunsDl s p ∧ p.ph ≠ .idle ∧ p.ph ≠ .done ∧ (p.ph = .run → p.pos ≠ .start ∧ p.pos ≠ .session) := by
  have hop : (match fetch s p with
      | .ok (.dl _ _ _ _) => true
      | _ => false) = true ↔ RunsDl s p := by
    unfold RunsDl
    split
    case h_1 hdl => simp [hdl]
    case h_2 hdl => simpa using hdl
  rw [inSession, Bool.and_eq_true]
  refine and_congr hop ?_
  cases p.ph <;> simp

/-- A conversation's step leaves the session alone. -/
theorem converse_session {call : Call} {s t : State} {p : Port} (hp : s.ports[s.actor]? = some p)
    (h : converse call s p = .next t) : SameSession s t ∧ t.sessionOwner = s.sessionOwner := by
  obtain ⟨_, _, _, _, _, _, _, _, _, _, rfl, _⟩ := converse_frame hp h
  exact ⟨by constructor <;> rfl, rfl⟩

/-- Every next state of a download up to its session wait (R202). -/
theorem dlRun_beforeSession {type counter : Byte} {size : Word} {blen : Half} {s t : State} {p : Port}
    (hpos : p.pos = .start ∨ p.pos = .session) (h : dlRun type counter size blen s p = .next t) :
    t = s ∨
    t = dlStart s p ∨
    (∃ st, t = raiseError s p st) ∨
    (s.sessionOwner = none ∧ t = { s with sessionOwner := some s.actor }.putPort (p.runAt .create)) := by
  have elsewhere {pos : RunPos} (h : p.pos = pos) (h1 : pos ≠ .start) (h2 : pos ≠ .session) : False := by
    subst h
    exact hpos.elim h1 h2
  rcases dlRun_next h with rfl | ⟨_, _, rfl⟩ | ⟨_, _, rfl⟩ | ⟨_, hfree, rfl⟩ | ⟨_, _, _, rfl⟩ | ⟨h, _⟩ | ⟨h, _⟩ |
    ⟨h, _⟩ | ⟨h, _⟩ | ⟨h, _⟩ | ⟨h, _⟩ | ⟨h, _⟩ | ⟨h, _⟩ | ⟨h, _⟩ | ⟨h, _⟩ | ⟨h, _⟩ | ⟨h, _⟩ | ⟨h, _⟩ | ⟨h, _⟩ |
    ⟨h, _⟩ | ⟨h, _⟩ | ⟨h, _⟩
  · exact .inl rfl
  · exact .inr (.inl rfl)
  · exact .inr (.inr (.inl ⟨_, rfl⟩))
  · exact .inr (.inr (.inr ⟨hfree, rfl⟩))
  · exact .inr (.inr (.inl ⟨_, rfl⟩))
  all_goals exact (elsewhere h (by decide) (by decide)).elim

/-- The download's registers and the sink change only in a step of a port that runs a download past its session wait. -/
theorem portStep_session {s t : State} {p : Port} (hp : s.ports[s.actor]? = some p) (h : PortStep s p t)
    (hout : inSession s p = false) : SameSession s t := by
  cases h with
  | stay => exact .refl s
  | answer => constructor <;> rfl
  | begin => constructor <;> rfl
  | respond => constructor <;> rfl
  | converse _ _ _ h => exact (converse_session hp h).1
  | download hph hi h =>
    have hpos : p.pos = .start ∨ p.pos = .session := by
      by_contra hpos
      rw [not_or] at hpos
      have hin : inSession s p = true :=
        (inSession_iff s p).mpr ⟨⟨_, _, _, _, hi⟩, by simp [hph], by simp [hph], fun _ => hpos⟩
      simp [hout] at hin
    rcases dlRun_beforeSession hpos h with rfl | rfl | ⟨_, rfl⟩ | ⟨_, rfl⟩
    · exact .refl t
    all_goals constructor <;> rfl

/-- Every move that is no port's and not RESET leaves the protected registers alone. -/
theorem perform_sameRegisters {m : Move} {s t : State} (hport : ∀ c, m ≠ .port c) (hreset : m ≠ .reset)
    (h : perform m s = .next t) : SameStaging s t ∧ SameSession s t := by
  cases m with
  | issue c d =>
    obtain ⟨_, _, _, rfl⟩ := issue_next h
    constructor <;> constructor <;> rfl
  | collect c =>
    obtain ⟨_, _, _, rfl⟩ := collect_next h
    constructor <;> constructor <;> rfl
  | port c => exact absurd rfl (hport c)
  | rx b =>
    obtain rfl := Host.Outcome.next.inj h
    rcases rxPush_cases b s with ⟨_, hrx⟩ | ⟨_, hrx⟩ <;> rw [hrx] <;> constructor <;> constructor <;> rfl
  | tx =>
    obtain rfl := Host.Outcome.next.inj h
    constructor <;> constructor <;> rfl
  | tick =>
    obtain rfl := Host.Outcome.next.inj h
    constructor <;> constructor <;> rfl
  | sink ok =>
    obtain rfl := Host.Outcome.next.inj h
    constructor <;> constructor <;> rfl
  | reset => exact absurd rfl hreset

/-- The two halves of O57 for any move: what changes is its lock owner's. -/
theorem perform_lockOwner {m : Move} {s t : State} (hinv : s.lockInv) (hreset : m ≠ .reset)
    (h : perform m s = .next t) :
    (SameStaging s t ∨ ∃ c, m = .port c ∧ s.linkOwner = some c ∧
      ∃ more : List (List Byte), more.length ≤ 1 ∧ t.wireOut = s.wireOut ++ more) ∧
    (SameSession s t ∨ ∃ c, m = .port c ∧ s.sessionOwner = some c) := by
  by_cases hport : ∃ c, m = .port c
  · obtain ⟨c, rfl⟩ := hport
    obtain ⟨⟨hlink, _⟩, hsession, _⟩ := hinv
    rcases portStep_of_runPort h with rfl | ⟨p, hp, _, _, h⟩
    · exact ⟨.inl (.refl t), .inl (.refl t)⟩
    · constructor
      · rcases portStep_staging hp h with hsame | ⟨howns, hmore⟩
        · exact .inl hsame.of_actor
        · exact .inr ⟨c, rfl, hlink c p hp howns, hmore⟩
      · cases hin : inSession s p
        · exact .inl (portStep_session hp h hin).of_actor
        · exact .inr ⟨c, rfl, (hsession c p hp).mp hin⟩
  · obtain ⟨hstaging, hsession⟩ := perform_sameRegisters (fun c hc => hport ⟨c, hc⟩) hreset h
    exact ⟨.inl hstaging, .inl hsession⟩

/-- Settles O57: by `portStep_staging` and `portStep_session` a change is of a port in a link-owning phase, or of one
past its session wait; the lock invariant says that such a port owns the lock. -/
theorem registersChangeOnlyForTheirLockOwner : Obligations.RegistersChangeOnlyForTheirLockOwner := by
  intro s t hinv hmove h
  obtain ⟨q, d, hnext⟩ := nextMove_frame s
  obtain ⟨_, h⟩ := step_next h
  rw [hnext] at h
  obtain ⟨hstaging, hsession⟩ := perform_lockOwner (s := { s with schedule := q, draws := d }) hinv hmove h
  exact ⟨hstaging.imp_left fun ⟨h1, h2, h3, h4, h5, h6⟩ => ⟨h1, h2, h3, h4, h5, h6⟩,
    hsession.imp_left fun ⟨h1, h2, h3, h4, h5, h6, h7, h8, h9, h10, h11, h12, h13, h14, h15, h16, h17, h18, h19⟩ =>
      ⟨h1, h2, h3, h4, h5, h6, h7, h8, h9, h10, h11, h12, h13, h14, h15, h16, h17, h18, h19⟩⟩

end Sys2Proof.Machine
end

section
/-! PROOFS of the statements of 10_state.md, part 3: what one step of a download past its session wait can do. -/

namespace Sys2Proof.Machine

open Sys2Proof Sys2Proof.Config

/-- R217: the link is freed for the acting port and left to every other. -/
theorem freeLink_frame (s : State) :
    ∃ link, freeLink s = { s with linkOwner := link } ∧
      ∀ d, link = some d ↔ s.linkOwner = some d ∧ d ≠ s.actor := by
  rcases freeLink_cases s with ⟨hl, h⟩ | ⟨hl, h⟩
  · exact ⟨none, h, fun d => by simp [hl, eq_comm]⟩
  · refine ⟨s.linkOwner, h, fun d => ⟨fun hd => ⟨hd, ?_⟩, And.left⟩⟩
    rintro rfl
    exact hl hd

/-- R215: the sink is closed if it is open. -/
theorem sinkClose_if_open (s : State) :
    ∃ k a d, (if s.sinkOpen then (sinkClose s).2 else s) =
      { s with sink := k, sinkAnswers := a, draws := d, sinkOpen := false } := by
  split
  case isTrue =>
    obtain ⟨a, d, hclose⟩ := sinkClose_frame s
    exact ⟨_, a, d, hclose⟩
  case isFalse hopen =>
    have hshut : s.sinkOpen = false := by simpa using hopen
    exact ⟨s.sink, s.sinkAnswers, s.draws, by rw [← hshut]⟩

/-- The session registers latched from the operands and the control registers (R203). -/
def latchSession (type counter : Byte) (size : Word) (blen : Half) (s : State) : State :=
  { s with
    dlType := type
    dlCounter := counter
    dlSize := size
    dlOffset := 0
    dlBlockLen := blen
    dlPdl := s.csr.pktDataLen
    dlFill := s.csr.gapFillByte.setWidth 8
    dlRetry := s.csr.pktRetryBudget
    dlPolls := s.csr.pollBudget
    sessionLatched := true }

/-- Every step of the acting port `p` in a download past its session wait, outside the conversations, by the position it
is taken at (R203 to R217). `k`, `a` and `d` are the sink and the two fields a sink call draws from. -/
inductive DlStep (type counter : Byte) (size : Word) (blen : Half) (s : State) (p : Port) : State → Prop
  | stay : DlStep type counter size blen s p s
  /-- `create`: the session is created -/
  | created (hpos : p.pos = .create) :
      DlStep type counter size blen s p ((latchSession type counter size blen s).putPort (p.runAt .opening))
  /-- `create`: the block needs more bits than the hole map has -/
  | refused (hpos : p.pos = .create) :
      DlStep type counter size blen s p
        (respond { latchSession type counter size blen s with sessionOwner := none } p .badDescriptor [])
  /-- `opening`: the sink is open -/
  | opened (k a d) (hpos : p.pos = .opening) :
      DlStep type counter size blen s p
        ({ s with sink := k, sinkAnswers := a, draws := d, sinkOpen := true }.putPort (p.runAt .request))
  /-- `opening`: the sink did not open -/
  | notOpened (k a d) (hpos : p.pos = .opening) :
      DlStep type counter size blen s p
        (respond { s with sink := k, sinkAnswers := a, draws := d, sessionOwner := none } p .filesystemFailure [])
  /-- a conversation begins -/
  | talks (f : FdeState) (polls : Nat) (hpos : p.pos = .request ∨ p.pos = .poll ∨ p.pos = .burst) :
      DlStep type counter size blen s p (beginConverse { s with fdeState := f, polls := polls } p)
  /-- `ret`: the block is requested -/
  | requested (hpos : p.pos = .ret) (hfde : s.fdeState = .blockRequested) :
      DlStep type counter size blen s p
        ({ s with fdeState := .blockReady, polls := s.dlPolls.toNat }.putPort (p.runAt .poll))
  /-- `ret`: the block is polled -/
  | polled (pos : RunPos) (hpos : p.pos = .ret) (hfde : s.fdeState = .blockReady) (hnext : pos = .burst ∨ pos = .poll) :
      DlStep type counter size blen s p (s.putPort (p.runAt pos))
  /-- `ret`: the burst is started -/
  | started (hpos : p.pos = .ret) (hfde : s.fdeState = .burstInProgress) :
      DlStep type counter size blen s p
        ({ s with
          npk := ceilDiv s.dlBlockLen.toNat s.dlPdl.toNat
          rem := s.dlBlockLen.toNat
          idx := 0
          indexSet := true }.putPort (p.runAt .loop))
  /-- `loop`: the next packet is to be read -/
  | turns (hpos : p.pos = .loop) :
      DlStep type counter size blen s p ({ s with tries := s.dlRetry.toNat + 1 }.putPort (p.runAt .attempt))
  /-- `loop`: the loop ends -/
  | loopEnds (hpos : p.pos = .loop) (hend : s.npk ≤ s.idx) :
      DlStep type counter size blen s p (s.putPort (p.runAt .blockEnd))
  /-- `attempt`: an attempt begins -/
  | attempts (hpos : p.pos = .attempt) :
      DlStep type counter size blen s p
        ({ s with tries := s.tries - 1 }.putPort
          ({ p.runAt .packet with k := 0 }.beginWait s.now s.csr.rxByteTimeout))
  /-- `packet`: the last byte of a packet -/
  | packetEnds (q pktbuf) (hpos : p.pos = .packet) :
      DlStep type counter size blen s p
        ({ s with rxq := q, pktbuf := pktbuf }.putPort { p.runAt .check with k := p.k + 1 })
  /-- `packet`: another byte of a packet -/
  | packetByte (q pktbuf) (hpos : p.pos = .packet) (hmore : p.k + 1 ≠ s.cfg.pktLen s.dlPdl.toNat) :
      DlStep type counter size blen s p
        ({ s with rxq := q, pktbuf := pktbuf }.putPort ({ p with k := p.k + 1 }.beginWait s.now s.csr.rxByteTimeout))
  /-- `packet`: the attempt times out -/
  | attemptFails (hpos : p.pos = .packet) : DlStep type counter size blen s p (s.putPort (p.runAt .attempt))
  /-- `check`: the counter is not below `i` -/
  | checked (hpos : p.pos = .check) (hseq : s.idx ≤ packetCounter s.cfg s.pktbuf) :
      DlStep type counter size blen s p
        ({ s with seq := packetCounter s.cfg s.pktbuf }.putPort (p.runAt .deliver))
  /-- `check`: the counter is below `i` -/
  | regressed (hpos : p.pos = .check) :
      DlStep type counter size blen s p
        (dlAbort { s with seq := packetCounter s.cfg s.pktbuf, protocolFaulted := true } p .protocolFault [])
  /-- `deliver`: a missing index is filled -/
  | filled (k a d) (hpos : p.pos = .deliver) (hidx : s.idx < s.seq) :
      DlStep type counter size blen s p
        ({ s with sink := k, sinkAnswers := a, draws := d, rem := s.rem - blockShare s, idx := s.idx + 1 }.putPort
          (p.runAt .deliver))
  /-- `deliver`: the packet's own data are written -/
  | delivered (k a d) (hpos : p.pos = .deliver) :
      DlStep type counter size blen s p
        ({ s with sink := k, sinkAnswers := a, draws := d, rem := s.rem - blockShare s, idx := s.idx + 1 }.putPort
          (p.runAt .loop))
  /-- the download fails and is to be aborted -/
  | fails (k a d st data) (hpos : p.pos = .poll ∨ p.pos = .ret ∨ p.pos = .attempt ∨ p.pos = .deliver) :
      DlStep type counter size blen s p
        (dlAbort { s with sink := k, sinkAnswers := a, draws := d } p st data)
  /-- `blockEnd`: the block is complete -/
  | blockEnds (link : Option Nat) (hpos : p.pos = .blockEnd)
      (hlink : ∀ d, link = some d ↔ s.linkOwner = some d ∧ d ≠ s.actor) :
      DlStep type counter size blen s p
        ({ s with
          linkOwner := link
          fdeState := .blockComplete
          dlOffset := s.dlOffset + s.dlBlockLen.toNat }.putPort
            (p.runAt (if s.dlSize.toNat ≤ s.dlOffset + s.dlBlockLen.toNat then .close else .request)))
  /-- `close` and `abort`: the sink is closed, the locks are free, the operation responds -/
  | ends (link : Option Nat) (k a d st data) (hpos : p.pos = .close ∨ p.pos = .abort)
      (hlink : ∀ d, link = some d ↔ s.linkOwner = some d ∧ (p.pos = .abort → d ≠ s.actor)) :
      DlStep type counter size blen s p
        (respond { s with
          linkOwner := link, sink := k, sinkAnswers := a, draws := d, sinkOpen := false, fdeState := .idle,
          sessionOwner := none } p st data)

section

variable {type counter : Byte} {size : Word} {blen : Half} {s : State} {p : Port}

theorem dlCreate_step (hpos : p.pos = .create) :
    DlStep type counter size blen s p (dlCreate type counter size blen s p) := by
  unfold dlCreate
  dsimp only
  split
  · exact .refused hpos
  · exact .created hpos

theorem dlOpen_step (hpos : p.pos = .opening) : DlStep type counter size blen s p (dlOpen type counter s p) := by
  obtain ⟨k, a, d, hsink⟩ := sinkOpen_frame ⟨type, counter⟩ s
  unfold dlOpen
  split <;> rename_i s' hopen <;> obtain rfl := (congrArg Prod.snd hopen).symm.trans hsink
  · exact .opened k a d hpos
  · exact .notOpened k a d hpos

/-- An abort that made no sink call. -/
theorem dlAbort_step (st : Status) (data : List Byte)
    (hpos : p.pos = .poll ∨ p.pos = .ret ∨ p.pos = .attempt ∨ p.pos = .deliver) :
    DlStep type counter size blen s p (dlAbort s p st data) :=
  .fails s.sink s.sinkAnswers s.draws st data hpos

theorem dlPoll_step (hpos : p.pos = .poll) : DlStep type counter size blen s p (dlPoll s p) := by
  unfold dlPoll
  split_ifs
  · exact .talks s.fdeState s.polls (.inr (.inl hpos))
  · exact dlAbort_step _ _ (.inl hpos)
  · exact .talks s.fdeState (s.polls - 1) (.inr (.inl hpos))

theorem dlRequested_step (hpos : p.pos = .ret) (hfde : s.fdeState = .blockRequested) :
    DlStep type counter size blen s p (dlRequested s p) := by
  unfold dlRequested
  split
  · exact .requested hpos hfde
  · exact dlAbort_step _ _ (.inr (.inl hpos))

theorem dlPolled_step (hpos : p.pos = .ret) (hfde : s.fdeState = .blockReady) :
    DlStep type counter size blen s p (dlPolled s p) := by
  unfold dlPolled
  split_ifs
  · exact dlAbort_step _ _ (.inr (.inl hpos))
  · split
    · exact dlAbort_step _ _ (.inr (.inl hpos))
    · exact .polled .burst hpos hfde (.inl rfl)
    · exact .polled .poll hpos hfde (.inr rfl)
  · exact dlAbort_step _ _ (.inr (.inl hpos))

theorem dlBurstStarted_step (hpos : p.pos = .ret) (hfde : s.fdeState = .burstInProgress) :
    DlStep type counter size blen s p (dlBurstStarted s p) := by
  unfold dlBurstStarted
  split
  · exact .started hpos hfde
  · exact dlAbort_step _ _ (.inr (.inl hpos))

theorem dlLoop_step (hpos : p.pos = .loop) : DlStep type counter size blen s p (dlLoop s p) := by
  unfold dlLoop
  split
  · exact .turns hpos
  · exact .loopEnds hpos (by omega)

theorem dlAttempt_step (hpos : p.pos = .attempt) : DlStep type counter size blen s p (dlAttempt s p) := by
  unfold dlAttempt
  split
  · exact .attempts hpos
  · exact dlAbort_step _ _ (.inr (.inr (.inl hpos)))

theorem packetByte_step (b : Byte) (q : List Byte) (hpos : p.pos = .packet) :
    DlStep type counter size blen s p (packetByte b { s with rxq := q } p) := by
  unfold packetByte
  dsimp only
  split
  · exact .packetEnds q _ hpos
  · exact .packetByte q _ hpos ‹_›

theorem dlCheck_step (hpos : p.pos = .check) : DlStep type counter size blen s p (dlCheck s p) := by
  unfold dlCheck
  dsimp only
  split
  · exact .regressed hpos
  · exact .checked hpos (by omega)

theorem dlDeliver_step (hpos : p.pos = .deliver) : DlStep type counter size blen s p (dlDeliver s p) := by
  unfold dlDeliver
  dsimp only
  split
  · obtain ⟨k, a, d, hsink⟩ := sinkWriteSome_frame (List.replicate (blockShare s) s.dlFill) s
    split <;> rename_i s' hwrite <;> obtain rfl := (congrArg Prod.snd hwrite).symm.trans hsink
    · exact .filled k a d hpos ‹_›
    · exact .fails k a d _ _ (.inr (.inr (.inr hpos)))
  · obtain ⟨k, a, d, hsink⟩ := sinkWriteSome_frame (packetData s.pktbuf (blockShare s)) s
    split <;> rename_i s' hwrite <;> obtain rfl := (congrArg Prod.snd hwrite).symm.trans hsink
    · exact .delivered k a d hpos
    · exact .fails k a d _ _ (.inr (.inr (.inr hpos)))

theorem dlBlockEnd_step (hpos : p.pos = .blockEnd) : DlStep type counter size blen s p (dlBlockEnd s p) := by
  obtain ⟨link, hfree, hlink⟩ := freeLink_frame s
  unfold dlBlockEnd
  dsimp only
  rw [hfree]
  exact .blockEnds link hpos hlink

theorem dlClose_step (hpos : p.pos = .close) : DlStep type counter size blen s p (dlClose s p) := by
  obtain ⟨a, d, hsink⟩ := sinkClose_frame s
  unfold dlClose
  split <;> rename_i s' hclose <;> obtain rfl := (congrArg Prod.snd hclose).symm.trans hsink <;>
    exact .ends s.linkOwner _ a d _ _ (.inl hpos) (by simp [hpos])

theorem dlAborted_step (hpos : p.pos = .abort) : DlStep type counter size blen s p (dlAborted s p) := by
  obtain ⟨link, hfree, hlink⟩ := freeLink_frame s
  unfold dlAborted
  dsimp only
  rw [hfree]
  obtain ⟨k, a, d, hshut⟩ := sinkClose_if_open { s with linkOwner := link }
  rw [hshut]
  exact .ends link k a d _ _ (.inr hpos) (by simpa [hpos] using hlink)

/-- Every step of a download past its session wait is a `DlStep`. -/
theorem dlStep_of_dlRun {t : State} (hstart : p.pos ≠ .start) (hsession : p.pos ≠ .session)
    (h : dlRun type counter size blen s p = .next t) : DlStep type counter size blen s p t := by
  rcases dlRun_next h with rfl | ⟨hpos, _⟩ | ⟨hpos, _⟩ | ⟨hpos, _⟩ | ⟨hpos, _⟩ | ⟨hpos, rfl⟩ | ⟨hpos, rfl⟩ |
    ⟨hpos, rfl⟩ | ⟨hpos, rfl⟩ | ⟨hpos, rfl⟩ | ⟨hpos, hfde, rfl⟩ | ⟨hpos, hfde, rfl⟩ | ⟨hpos, hfde, rfl⟩ | ⟨hpos, rfl⟩ |
    ⟨hpos, rfl⟩ | ⟨hpos, b, q, _, rfl⟩ | ⟨hpos, _, _, rfl⟩ | ⟨hpos, rfl⟩ | ⟨hpos, rfl⟩ | ⟨hpos, rfl⟩ | ⟨hpos, rfl⟩ |
    ⟨hpos, rfl⟩
  · exact .stay
  · exact absurd hpos hstart
  · exact absurd hpos hstart
  · exact absurd hpos hsession
  · exact absurd hpos hsession
  · exact dlCreate_step hpos
  · exact dlOpen_step hpos
  · exact .talks .blockRequested s.polls (.inl hpos)
  · exact dlPoll_step hpos
  · exact .talks .burstInProgress s.polls (.inr (.inr hpos))
  · exact dlRequested_step hpos hfde
  · exact dlPolled_step hpos hfde
  · exact dlBurstStarted_step hpos hfde
  · exact dlLoop_step hpos
  · exact dlAttempt_step hpos
  · exact packetByte_step b q hpos
  · exact .attemptFails hpos
  · exact dlCheck_step hpos
  · exact dlDeliver_step hpos
  · exact dlBlockEnd_step hpos
  · exact dlClose_step hpos
  · exact dlAborted_step hpos

end

end Sys2Proof.Machine
end

section
/-! PROOFS of the statements of 10_state.md, part 4: every step keeps the locks owned exactly as R24, R30, R71, R72,
R216 and R217 say. The invariant is read port by port (`PortLocks`): a step of one port must keep it for that port and
leave the ownership of every other alone (`LockFrame`). -/

namespace Sys2Proof.Machine

open Sys2Proof Sys2Proof.Config

/-! ## The lock invariant, port by port -/

/-- What the lock invariant says of port `c` with the registers `p`. -/
structure PortLocks (s : State) (c : Nat) (p : Port) : Prop where
  owns : p.ph.ownsLink = true → s.linkOwner = some c
  owned : s.linkOwner = some c → p.ph.ownsLink = true ∨
    (p.ph = .run ∧ p.pos.inBurst = true ∧ s.fdeState = .burstInProgress ∧ s.sessionOwner = some c)
  session : inSession s p = true ↔ s.sessionOwner = some c
  fresh : s.sessionOwner = some c → p.ph = .run → p.pos = .create ∨ p.pos = .opening →
    s.fdeState = .idle ∧ s.sinkOpen = false

/-- Without a session the engine is `Idle` with no open sink. -/
def EngineRests (s : State) : Prop := s.sessionOwner = none → s.fdeState = .idle ∧ s.sinkOpen = false

theorem lockInv_iff (s : State) :
    s.lockInv ↔ (∀ c p, s.ports[c]? = some p → PortLocks s c p) ∧
      (∀ c, s.linkOwner = some c ∨ s.sessionOwner = some c → c < s.ports.length) ∧ EngineRests s := by
  constructor
  · rintro ⟨⟨howns, howned⟩, hsession, hrange, hrests, hfresh⟩
    refine ⟨fun c p hp => ⟨howns c p hp, fun hc => ?_, hsession c p hp, hfresh c p hp⟩, fun c hc => ?_, hrests⟩
    · obtain ⟨q, hq, hown⟩ := howned c hc
      obtain rfl : p = q := Option.some.inj (hp.symm.trans hq)
      exact hown
    · rcases hc with hc | hc
      · obtain ⟨q, hq, _⟩ := howned c hc
        exact (List.getElem?_eq_some_iff.mp hq).1
      · exact hrange c hc
  · rintro ⟨hports, hrange, hrests⟩
    refine ⟨⟨fun c p hp => (hports c p hp).owns, fun c hc => ?_⟩, fun c p hp => (hports c p hp).session,
      fun c hc => hrange c (.inr hc), hrests, fun c p hp => (hports c p hp).fresh⟩
    have hp := List.getElem?_eq_getElem (hrange c (.inl hc))
    exact ⟨_, hp, (hports c _ hp).owned hc⟩

/-- Port `c` runs outside a conversation and owns the link: it is a download in its burst. -/
theorem PortLocks.burst_of_run {s : State} {c : Nat} {p : Port} (h : PortLocks s c p) (hph : p.ph.ownsLink = false)
    (hlink : s.linkOwner = some c) :
    p.pos.inBurst = true ∧ s.fdeState = .burstInProgress ∧ s.sessionOwner = some c := by
  rcases h.owned hlink with howns | ⟨_, hburst⟩
  · simp [hph] at howns
  · exact hburst

/-- A port in no link-owning phase and in no session owns neither lock. -/
theorem PortLocks.owns_nothing {s : State} {c : Nat} {p : Port} (h : PortLocks s c p) (hph : p.ph.ownsLink = false)
    (hout : inSession s p = false) : s.linkOwner ≠ some c ∧ s.sessionOwner ≠ some c := by
  have hsession : s.sessionOwner ≠ some c := fun hc => by simp [h.session.mpr hc] at hout
  refine ⟨fun hc => ?_, hsession⟩
  obtain ⟨_, _, hown⟩ := h.burst_of_run hph hc
  exact hsession hown

/-- Such a port meets its part of the invariant when it owns neither lock. -/
theorem portLocks_of_owns_nothing {s : State} {c : Nat} {p : Port} (hph : p.ph.ownsLink = false)
    (hout : inSession s p = false) (hlink : s.linkOwner ≠ some c) (hsession : s.sessionOwner ≠ some c) :
    PortLocks s c p :=
  ⟨fun h => by simp [hph] at h, fun h => absurd h hlink, by simp [hout, hsession], fun h => absurd h hsession⟩

/-- What the invariant of the ports other than `c` rests on: their ownership, and the engine if one of them runs it. -/
structure LockFrame (s t : State) (c : Nat) : Prop where
  cfg : t.cfg = s.cfg
  link : ∀ d, d ≠ c → (t.linkOwner = some d ↔ s.linkOwner = some d)
  session : ∀ d, d ≠ c → (t.sessionOwner = some d ↔ s.sessionOwner = some d)
  engine : ∀ d, d ≠ c → s.sessionOwner = some d → t.fdeState = s.fdeState ∧ t.sinkOpen = s.sinkOpen

theorem inSession_congr {s t : State} {p q : Port} (hcfg : t.cfg = s.cfg) (hdesc : q.desc = p.desc)
    (hlen : q.descLen = p.descLen) (hph : q.ph = p.ph) (hpos : q.pos = p.pos) : inSession t q = inSession s p := by
  simp only [inSession, fetch_congr hcfg hdesc hlen, hph, hpos]

theorem PortLocks.of_frame {s t : State} {c d : Nat} {q : Port} (h : PortLocks s d q) (hframe : LockFrame s t c)
    (hd : d ≠ c) : PortLocks t d q := by
  have hin : inSession t q = inSession s q := inSession_congr hframe.cfg rfl rfl rfl rfl
  refine ⟨fun howns => (hframe.link d hd).mpr (h.owns howns), fun hlink => ?_, ?_, fun hsession hrun hpos => ?_⟩
  · refine (h.owned ((hframe.link d hd).mp hlink)).imp_right fun ⟨hrun, hburst, hfde, hsession⟩ => ?_
    exact ⟨hrun, hburst, (hframe.engine d hd hsession).1.trans hfde, (hframe.session d hd).mpr hsession⟩
  · rw [hin, hframe.session d hd]
    exact h.session
  · have hs := (hframe.session d hd).mp hsession
    obtain ⟨hfde, hsink⟩ := h.fresh hs hrun hpos
    obtain ⟨hf, ho⟩ := hframe.engine d hd hs
    exact ⟨hf.trans hfde, ho.trans hsink⟩

/-- A property of every port after port `c` was written: of what was written, and of the other ports as they were. -/
theorem forall_ports_set {s t : State} {c : Nat} {p' : Port} {P : Nat → Port → Prop}
    (hports : t.ports = s.ports.set c p') (hmine : P c p')
    (hothers : ∀ d q, d ≠ c → s.ports[d]? = some q → P d q) : ∀ d q, t.ports[d]? = some q → P d q := by
  intro d q hq
  rw [hports] at hq
  by_cases hd : d = c
  · subst hd
    obtain ⟨hlt, _⟩ := List.getElem?_eq_some_iff.mp hq
    rw [List.getElem?_set_self (by simpa using hlt)] at hq
    exact Option.some.inj hq ▸ hmine
  · rw [List.getElem?_set_ne (Ne.symm hd)] at hq
    exact hothers d q hd hq

/-- A step that writes the registers of port `c` only keeps the invariant when it keeps that port's part and frames the
others. -/
theorem lockInv_of_step {s t : State} {c : Nat} {p p' : Port} (h : s.lockInv) (hp : s.ports[c]? = some p)
    (hports : t.ports = s.ports.set c p') (hframe : LockFrame s t c) (hmine : PortLocks t c p')
    (hrests : EngineRests t) : t.lockInv := by
  obtain ⟨hall, hrange, _⟩ := (lockInv_iff s).mp h
  have hc : c < s.ports.length := (List.getElem?_eq_some_iff.mp hp).1
  refine (lockInv_iff t).mpr ⟨forall_ports_set hports hmine fun d q hd hq => (hall d q hq).of_frame hframe hd,
    fun d hd => ?_, hrests⟩
  · rw [hports, List.length_set]
    by_cases hdc : d = c
    · exact hdc ▸ hc
    · exact hrange d (hd.imp (hframe.link d hdc).mp (hframe.session d hdc).mp)

/-! ## The kinds of step, by what they do to the locks -/

/-- What a step does to the locks and to the engine's two flags: nothing. -/
structure SameLocks (s t : State) : Prop where
  cfg : t.cfg = s.cfg
  link : t.linkOwner = s.linkOwner
  session : t.sessionOwner = s.sessionOwner
  fdeState : t.fdeState = s.fdeState
  sinkOpen : t.sinkOpen = s.sinkOpen

theorem SameLocks.frame {s t : State} (h : SameLocks s t) (c : Nat) : LockFrame s t c :=
  ⟨h.cfg, fun d _ => by rw [h.link], fun d _ => by rw [h.session], fun _ _ _ => ⟨h.fdeState, h.sinkOpen⟩⟩

theorem SameLocks.rests {s t : State} (h : SameLocks s t) (hs : EngineRests s) : EngineRests t := by
  unfold EngineRests
  rw [h.session, h.fdeState, h.sinkOpen]
  exact hs

/-- The invariant does not look at anything else. -/
theorem SameLocks.lockInv {s t : State} (h : SameLocks s t) (hports : t.ports = s.ports) (hs : s.lockInv) :
    t.lockInv := by
  obtain ⟨hall, hrange, hrests⟩ := (lockInv_iff s).mp hs
  refine (lockInv_iff t).mpr ⟨fun c p hp => ?_, ?_, h.rests hrests⟩
  · rw [hports] at hp
    exact (hall c p hp).of_frame (h.frame (c + 1)) (by omega)
  · rwa [h.link, h.session, hports]

/-- A port that owns neither lock, before and after its step. -/
theorem lockInv_of_bystander {s t : State} {c : Nat} {p p' : Port} (h : s.lockInv) (hp : s.ports[c]? = some p)
    (hports : t.ports = s.ports.set c p') (hsame : SameLocks s t) (hph : p.ph.ownsLink = false)
    (hout : inSession s p = false) (hph' : p'.ph.ownsLink = false) (hout' : inSession t p' = false) : t.lockInv := by
  obtain ⟨hall, _, hrests⟩ := (lockInv_iff s).mp h
  obtain ⟨hlink, hsession⟩ := (hall c p hp).owns_nothing hph hout
  exact lockInv_of_step h hp hports (hsame.frame c)
    (portLocks_of_owns_nothing hph' hout' (hsame.link ▸ hlink) (hsame.session ▸ hsession)) (hsame.rests hrests)

theorem not_inSession_of_not_dl {s : State} {p : Port} (h : ¬RunsDl s p) : inSession s p = false :=
  Bool.eq_false_iff.mpr fun hin =>
    have ⟨hdl, _⟩ := (inSession_iff s p).mp hin
    h hdl

theorem not_inSession_of_idle {s : State} {p : Port} (h : p.ph = .idle) : inSession s p = false :=
  Bool.eq_false_iff.mpr fun hin =>
    have ⟨_, hidle, _⟩ := (inSession_iff s p).mp hin
    hidle h

theorem not_inSession_of_done {s : State} {p : Port} (h : p.ph = .done) : inSession s p = false :=
  Bool.eq_false_iff.mpr fun hin =>
    have ⟨_, _, hdone, _⟩ := (inSession_iff s p).mp hin
    hdone h

theorem not_inSession_before {s : State} {p : Port} (hph : p.ph = .run) (hpos : p.pos = .start ∨ p.pos = .session) :
    inSession s p = false := by
  refine Bool.eq_false_iff.mpr fun hin => ?_
  obtain ⟨_, _, _, hpast⟩ := (inSession_iff s p).mp hin
  exact hpos.elim (hpast hph).1 (hpast hph).2

/-- The session's owner steps and keeps the session; the link stays as it was, or is freed. -/
theorem lockInv_of_session_kept {s t : State} {c : Nat} {p p' : Port} (h : s.lockInv) (hp : s.ports[c]? = some p)
    (hports : t.ports = s.ports.set c p') (hown : s.sessionOwner = some c) (hcfg : t.cfg = s.cfg)
    (hsession : t.sessionOwner = s.sessionOwner) (hin : inSession t p' = true) (hph' : p'.ph.ownsLink = false)
    (hlink : ∀ d, d ≠ c → (t.linkOwner = some d ↔ s.linkOwner = some d))
    (hburst : t.linkOwner = some c → p'.ph = .run ∧ p'.pos.inBurst = true ∧ t.fdeState = .burstInProgress)
    (hfresh : p'.ph = .run → p'.pos = .create ∨ p'.pos = .opening → t.fdeState = .idle ∧ t.sinkOpen = false) :
    t.lockInv := by
  have hown' : t.sessionOwner = some c := hsession.trans hown
  refine lockInv_of_step h hp hports ⟨hcfg, hlink, fun d _ => by rw [hsession], fun d hd hd' => ?_⟩
    ⟨fun howns => ?_, fun hl => ?_, by simp [hin, hown'], fun _ => hfresh⟩ fun hnone => ?_
  · exact absurd (Option.some.inj (hd'.symm.trans hown)) hd
  · simp [hph'] at howns
  · obtain ⟨hrun, hpos, hfde⟩ := hburst hl
    exact .inr ⟨hrun, hpos, hfde, hown'⟩
  · simp [hown'] at hnone

/-- The session's owner gives the session back, with its response (R214 to R216). -/
theorem lockInv_of_session_left {s t : State} {c : Nat} {p p' : Port} (h : s.lockInv) (hp : s.ports[c]? = some p)
    (hports : t.ports = s.ports.set c p') (hown : s.sessionOwner = some c) (hcfg : t.cfg = s.cfg)
    (hsession : t.sessionOwner = none) (hfde : t.fdeState = .idle) (hsink : t.sinkOpen = false) (hph' : p'.ph = .done)
    (hlink : ∀ d, d ≠ c → (t.linkOwner = some d ↔ s.linkOwner = some d)) (hfree : t.linkOwner ≠ some c) :
    t.lockInv := by
  refine lockInv_of_step h hp hports ⟨hcfg, hlink, fun d hd => ?_, fun d hd hd' => ?_⟩
    (portLocks_of_owns_nothing (by rw [hph']; rfl) (not_inSession_of_done hph') hfree
      (by simp [hsession])) fun _ => ⟨hfde, hsink⟩
  · simpa [hsession, hown] using Ne.symm hd
  · exact absurd (Option.some.inj (hd'.symm.trans hown)) hd

end Sys2Proof.Machine
end

section
/-! PROOFS of the statements of 10_state.md, part 5: the lock invariant through every step. -/

namespace Sys2Proof.Machine

open Sys2Proof Sys2Proof.Config

/-! ## A conversation takes the link, holds it and gives it back (R150, R151, R158) -/

/-- What a conversation's step from the registers `p` to `p'` does to the link. -/
inductive LinkEffect (call : Call) (s t : State) (p p' : Port) : Prop
  | holds (hph : p.ph.ownsLink = true) (hph' : p'.ph.ownsLink = true) (hlink : t.linkOwner = s.linkOwner)
  | takes (hph : p.ph = .acquire) (hfree : s.linkOwner = none) (hlink : t.linkOwner = some s.actor)
      (hph' : p'.ph = .encode)
  | isRefused (hph : p.ph = .acquire) (hlink : t.linkOwner = s.linkOwner) (hph' : p'.ph = .run) (hpos' : p'.pos = .ret)
  | frees (hph : p.ph = .release) (hlink : t.linkOwner = none) (hph' : p'.ph = .run) (hpos' : p'.pos = .ret)
  | keepsForBurst (hph : p.ph = .release) (hhold : call.hold = true) (hlink : t.linkOwner = s.linkOwner)
      (hph' : p'.ph = .run) (hpos' : p'.pos = .ret)

theorem converse_link {call : Call} {s t : State} {p : Port} (h : converse call s p = .next t) :
    t = s ∨ ∃ p', t.ports = s.ports.set s.actor p' ∧ p'.desc = p.desc ∧ p'.descLen = p.descLen ∧
      LinkEffect call s t p p' := by
  rcases converse_next h with rfl | ⟨hph, hfree, rfl⟩ | ⟨hph, _, _, rfl⟩ | ⟨hph, rfl⟩ | ⟨hph, _, rfl⟩ |
    ⟨hph, _, _, rfl⟩ | ⟨hph, _, _, _, rfl⟩ | ⟨hph, _, b, q, _, rfl⟩ |
    ⟨hph, _, b, q, _, rfl⟩ | ⟨hph, _, _, _, rfl⟩ | ⟨hph, rfl⟩
  · exact .inl rfl
  · exact .inr ⟨_, rfl, rfl, rfl, .takes hph hfree rfl rfl⟩
  · exact .inr ⟨_, rfl, rfl, rfl, .isRefused hph rfl rfl rfl⟩
  · unfold converseEncode
    split <;> exact .inr ⟨_, rfl, rfl, rfl, .holds (by rw [hph]; rfl) rfl rfl⟩
  · exact .inr ⟨_, rfl, rfl, rfl, .holds (by rw [hph]; rfl) (by simp [hph, Phase.ownsLink]) rfl⟩
  · unfold afterTxDone
    split <;> exact .inr ⟨_, rfl, rfl, rfl, .holds (by rw [hph]; rfl) rfl rfl⟩
  · exact .inr ⟨_, rfl, rfl, rfl, .holds (by rw [hph]; rfl) rfl rfl⟩
  · unfold ackByte
    dsimp only
    split <;> exact .inr ⟨_, rfl, rfl, rfl, .holds (by rw [hph]; rfl) (by simp [hph, Phase.ownsLink]) rfl⟩
  · unfold replyByte
    dsimp only
    split_ifs <;> exact .inr ⟨_, rfl, rfl, rfl, .holds (by rw [hph]; rfl) (by simp [hph, Phase.ownsLink]) rfl⟩
  · exact .inr ⟨_, rfl, rfl, rfl, .holds (by rw [hph]; rfl) rfl rfl⟩
  · unfold converseRelease
    split
    case isTrue hhold =>
      exact .inr ⟨_, rfl, rfl, rfl, .keepsForBurst hph (Bool.and_eq_true _ _ ▸ hhold).1 rfl rfl rfl⟩
    case isFalse => exact .inr ⟨_, rfl, rfl, rfl, .frees hph rfl rfl rfl⟩

/-- Only the initiate-burst conversation of a download may keep the link (R206, R217). -/
theorem callOf_hold {s : State} {i : Instr} {call : Call} (h : callOf s i = some call) (hhold : call.hold = true) :
    s.fdeState = .burstInProgress ∧ ∃ type counter size blen, i = .dl type counter size blen := by
  cases i with
  | dl type counter size blen =>
    refine ⟨?_, _, _, _, _, rfl⟩
    simp only [callOf, dlCall] at h
    split at h
    case h_1 => cases h; cases hhold
    case h_2 => cases h; cases hhold
    case h_3 hfde => exact hfde
    case h_4 => cases h
    case h_5 => cases h
  | tc _ => cases h; cases hhold
  | tcnr _ => cases h; cases hhold
  | tm _ _ => cases h; cases hhold
  | stuff _ => cases h
  | destuff _ => cases h
  | csrw _ _ => cases h
  | csrr _ => cases h

/-- A busy port past the start of its operation and past a session wait is in session when it runs a download. -/
theorem inSession_iff_runsDl {s : State} {p : Port} (hidle : p.ph ≠ .idle) (hdone : p.ph ≠ .done)
    (hpos : p.ph = .run → p.pos ≠ .start ∧ p.pos ≠ .session) : inSession s p = true ↔ RunsDl s p := by
  rw [inSession_iff]
  exact ⟨And.left, fun h => ⟨h, hidle, hdone, hpos⟩⟩

theorem runsDl_congr {s t : State} {p q : Port} (hcfg : t.cfg = s.cfg) (hdesc : q.desc = p.desc)
    (hlen : q.descLen = p.descLen) : RunsDl t q ↔ RunsDl s p := by
  unfold RunsDl
  rw [fetch_congr hcfg hdesc hlen]

theorem Phase.ne_of_ownsLink {ph : Phase} (h : ph.ownsLink = true) : ph ≠ .idle ∧ ph ≠ .done ∧ ph ≠ .run := by
  refine ⟨?_, ?_, ?_⟩ <;> rintro rfl <;> cases h

/-- After a conversation's step the acting port's part of the lock invariant holds again. -/
theorem portLocks_of_linkEffect {i : Instr} {call : Call} {s t : State} {p p' : Port} (hold : PortLocks s s.actor p)
    (hi : fetch s p = .ok i) (hcall : callOf s i = some call) (hcfg : t.cfg = s.cfg) (hdesc : p'.desc = p.desc)
    (hlen : p'.descLen = p.descLen) (hsame : SameSession s t) (hsession : t.sessionOwner = s.sessionOwner)
    (heffect : LinkEffect call s t p p') : PortLocks t s.actor p' := by
  have hin (hph : p.ph ≠ .idle ∧ p.ph ≠ .done ∧ p.ph ≠ .run) (hph' : p'.ph ≠ .idle ∧ p'.ph ≠ .done)
      (hpos' : p'.ph = .run → p'.pos = .ret) : inSession t p' = true ↔ t.sessionOwner = some s.actor := by
    rw [hsession, ← hold.session, inSession_iff_runsDl hph.1 hph.2.1 fun e => absurd e hph.2.2,
      inSession_iff_runsDl hph'.1 hph'.2 fun e => by simp [hpos' e], runsDl_congr hcfg hdesc hlen]
  cases heffect with
  | holds hph hph' hlink =>
    obtain ⟨hidle', hdone', hrun'⟩ := Phase.ne_of_ownsLink hph'
    exact ⟨fun _ => hlink.trans (hold.owns hph), fun _ => .inl hph',
      hin (Phase.ne_of_ownsLink hph) ⟨hidle', hdone'⟩ fun e => absurd e hrun', fun _ e => absurd e hrun'⟩
  | takes hph _ hlink hph' =>
    exact ⟨fun _ => hlink, fun _ => .inl (by rw [hph']; rfl), hin (by simp [hph]) (by simp [hph']) (by simp [hph']),
      fun _ e => by simp [hph'] at e⟩
  | isRefused hph hlink hph' hpos' =>
    refine ⟨by simp [hph', Phase.ownsLink], fun e => ?_, hin (by simp [hph]) (by simp [hph']) fun _ => hpos',
      fun _ _ e => by simp [hpos'] at e⟩
    simpa [hph, Phase.ownsLink] using hold.owned (hlink.symm.trans e)
  | frees hph hlink hph' hpos' =>
    exact ⟨by simp [hph', Phase.ownsLink], fun e => by simp [hlink] at e,
      hin (by simp [hph]) (by simp [hph']) fun _ => hpos', fun _ _ e => by simp [hpos'] at e⟩
  | keepsForBurst hph hhold hlink hph' hpos' =>
    obtain ⟨hfde, type, counter, size, blen, rfl⟩ := callOf_hold hcall hhold
    have hsession' : s.sessionOwner = some s.actor :=
      hold.session.mp ((inSession_iff_runsDl (by simp [hph]) (by simp [hph]) (by simp [hph])).mpr ⟨_, _, _, _, hi⟩)
    exact ⟨by simp [hph', Phase.ownsLink],
      fun _ => .inr ⟨hph', by rw [hpos']; rfl, hsame.fdeState.trans hfde, hsession.trans hsession'⟩,
      hin (by simp [hph]) (by simp [hph']) fun _ => hpos', fun _ _ e => by simp [hpos'] at e⟩

/-- A conversation moves the link between `none` and its own port only. -/
theorem LinkEffect.others {call : Call} {s t : State} {p p' : Port} (heffect : LinkEffect call s t p p')
    (hold : PortLocks s s.actor p) (d : Nat) (hd : d ≠ s.actor) : t.linkOwner = some d ↔ s.linkOwner = some d := by
  cases heffect with
  | holds _ _ hlink => rw [hlink]
  | takes _ hfree hlink _ => simp [hlink, hfree, Ne.symm hd]
  | isRefused _ hlink _ _ => rw [hlink]
  | frees hph hlink _ _ => simp [hlink, hold.owns (by rw [hph]; rfl), Ne.symm hd]
  | keepsForBurst _ _ hlink _ _ => rw [hlink]

/-- A conversation's step keeps the lock invariant. -/
theorem lockInv_of_converse {i : Instr} {call : Call} {s t : State} {p : Port} (hinv : s.lockInv)
    (hp : s.ports[s.actor]? = some p) (hi : fetch s p = .ok i) (hcall : callOf s i = some call)
    (h : converse call s p = .next t) : t.lockInv := by
  have hcfg : t.cfg = s.cfg := by
    obtain ⟨_, _, _, _, _, _, _, _, _, _, rfl, _⟩ := converse_frame hp h
    rfl
  obtain ⟨hsame, hsession⟩ := converse_session hp h
  obtain ⟨hall, _, hrests⟩ := (lockInv_iff s).mp hinv
  rcases converse_link h with rfl | ⟨p', hports, hdesc, hlen, heffect⟩
  · exact hinv
  · refine lockInv_of_step hinv hp hports
      ⟨hcfg, heffect.others (hall _ _ hp), fun d _ => by rw [hsession], fun _ _ _ => ⟨hsame.fdeState, hsame.sinkOpen⟩⟩
      (portLocks_of_linkEffect (hall _ _ hp) hi hcall hcfg hdesc hlen hsame hsession heffect) fun hnone => ?_
    rw [hsame.fdeState, hsame.sinkOpen]
    exact hrests (hsession.symm.trans hnone)

/-! ## The download engine (R201 to R217) -/

section

variable {s t : State} {p p' : Port}

/-- A download past its session wait that owns the link is in its burst. -/
theorem burst_of_inSession (hinv : s.lockInv) (hp : s.ports[s.actor]? = some p) (hph : p.ph = .run)
    (hlink : s.linkOwner = some s.actor) : p.pos.inBurst = true ∧ s.fdeState = .burstInProgress :=
  have hold := ((lockInv_iff s).mp hinv).1 _ _ hp
  have ⟨hpos, hfde, _⟩ := hold.burst_of_run (by rw [hph]; rfl) hlink
  ⟨hpos, hfde⟩

/-- Outside the positions of the burst a running port does not own the link. -/
theorem link_free_of_inSession (hinv : s.lockInv) (hp : s.ports[s.actor]? = some p) (hph : p.ph = .run)
    (hpos : p.pos.inBurst = false) : s.linkOwner ≠ some s.actor := fun hlink => by
  simp [(burst_of_inSession hinv hp hph hlink).1] at hpos

/-- Before a burst the engine's states tell that the running port does not own the link. -/
theorem link_free_of_fdeState (hinv : s.lockInv) (hp : s.ports[s.actor]? = some p) (hph : p.ph = .run)
    (hfde : s.fdeState ≠ .burstInProgress) : s.linkOwner ≠ some s.actor := fun hlink =>
  hfde (burst_of_inSession hinv hp hph hlink).2

/-- A step after which the download still runs, or has begun a conversation. -/
theorem lockInv_of_session_goes_on (hinv : s.lockInv) (hp : s.ports[s.actor]? = some p)
    (hports : t.ports = s.ports.set s.actor p') (hin : inSession s p = true)
    (hburst : t.linkOwner = some s.actor → p'.ph = .run ∧ p'.pos.inBurst = true ∧ t.fdeState = .burstInProgress)
    (hfresh : p'.ph = .run → p'.pos = .create ∨ p'.pos = .opening → t.fdeState = .idle ∧ t.sinkOpen = false)
    (hph' : p'.ph = .run ∧ p'.pos ≠ .start ∧ p'.pos ≠ .session ∨ p'.ph = .acquire)
    (hlink : ∀ d, d ≠ s.actor → (t.linkOwner = some d ↔ s.linkOwner = some d) := by exact fun _ _ => Iff.rfl)
    (hcfg : t.cfg = s.cfg := by rfl)
    (hsession : t.sessionOwner = s.sessionOwner := by rfl) (hdesc : p'.desc = p.desc := by rfl)
    (hlen : p'.descLen = p.descLen := by rfl) : t.lockInv := by
  have hold := ((lockInv_iff s).mp hinv).1 _ _ hp
  have hdl := (runsDl_congr hcfg hdesc hlen).mpr ((inSession_iff s p).mp hin).1
  have hin' : inSession t p' = true := by
    rw [inSession_iff]
    rcases hph' with ⟨e, hpos⟩ | e
    · exact ⟨hdl, by simp [e], by simp [e], fun _ => hpos⟩
    · exact ⟨hdl, by simp [e], by simp [e], by simp [e]⟩
  have howns : p'.ph.ownsLink = false := by
    rcases hph' with ⟨e, _⟩ | e <;> rw [e] <;> rfl
  exact lockInv_of_session_kept hinv hp hports (hold.session.mp hin) hcfg hsession hin' howns hlink hburst hfresh

/-- A step inside the burst, which changes neither the link nor the engine's state. -/
theorem lockInv_of_burst_goes_on (hinv : s.lockInv) (hp : s.ports[s.actor]? = some p)
    (hports : t.ports = s.ports.set s.actor p') (hin : inSession s p = true)
    (hph : p.ph = .run) (hph' : p'.ph = .run) (hpos' : p'.pos.inBurst = true)
    (hcfg : t.cfg = s.cfg := by rfl)
    (hlink : t.linkOwner = s.linkOwner := by rfl) (hfde : t.fdeState = s.fdeState := by rfl)
    (hsession : t.sessionOwner = s.sessionOwner := by rfl) (hdesc : p'.desc = p.desc := by rfl)
    (hlen : p'.descLen = p.descLen := by rfl) : t.lockInv := by
  have elsewhere {pos : RunPos} (hpos : pos.inBurst = false) : p'.pos ≠ pos := by
    rintro rfl
    simp [hpos] at hpos'
  refine lockInv_of_session_goes_on hinv hp hports hin (fun e => ?_) (fun _ hpos => ?_)
    (.inl ⟨hph', elsewhere rfl, elsewhere rfl⟩) (fun d _ => by rw [hlink]) hcfg hsession hdesc hlen
  · exact ⟨hph', hpos', hfde.trans (burst_of_inSession hinv hp hph (hlink.symm.trans e)).2⟩
  · exact (hpos.elim (elsewhere rfl) (elsewhere rfl)).elim

/-- A step outside the burst, which leaves the link to the other ports. -/
theorem lockInv_of_linkless (hinv : s.lockInv) (hp : s.ports[s.actor]? = some p)
    (hports : t.ports = s.ports.set s.actor p') (hin : inSession s p = true)
    (hfree : s.linkOwner ≠ some s.actor)
    (hfresh : p'.ph = .run → p'.pos = .create ∨ p'.pos = .opening → t.fdeState = .idle ∧ t.sinkOpen = false)
    (hph' : p'.ph = .run ∧ p'.pos ≠ .start ∧ p'.pos ≠ .session ∨ p'.ph = .acquire)
    (hcfg : t.cfg = s.cfg := by rfl)
    (hlink : t.linkOwner = s.linkOwner := by rfl) (hsession : t.sessionOwner = s.sessionOwner := by rfl)
    (hdesc : p'.desc = p.desc := by rfl) (hlen : p'.descLen = p.descLen := by rfl) : t.lockInv :=
  lockInv_of_session_goes_on hinv hp hports hin (fun e => absurd (hlink.symm.trans e) hfree) hfresh hph'
    (fun d _ => by rw [hlink]) hcfg hsession hdesc hlen

end

/-- A step of a download past its session wait keeps the lock invariant. -/
theorem lockInv_of_dlStep {type counter : Byte} {size : Word} {blen : Half} {s t : State} {p : Port} (hinv : s.lockInv)
    (hp : s.ports[s.actor]? = some p) (hph : p.ph = .run) (hin : inSession s p = true)
    (h : DlStep type counter size blen s p t) : t.lockInv := by
  have hold := ((lockInv_iff s).mp hinv).1 _ _ hp
  have hown := hold.session.mp hin
  have hfree {pos : RunPos} (hpos : p.pos = pos) (hb : pos.inBurst = false) : s.linkOwner ≠ some s.actor :=
    link_free_of_inSession hinv hp hph (hpos ▸ hb)
  cases h with
  | stay => exact hinv
  | created hpos =>
    exact lockInv_of_linkless hinv hp rfl hin (hfree hpos rfl) (fun _ _ => hold.fresh hown hph (.inl hpos))
      (.inl ⟨rfl, by simp, by simp⟩)
  | refused hpos =>
    obtain ⟨hfde, hsink⟩ := hold.fresh hown hph (.inl hpos)
    exact lockInv_of_session_left hinv hp rfl hown rfl rfl hfde hsink rfl (fun _ _ => Iff.rfl) (hfree hpos rfl)
  | opened k a d hpos =>
    exact lockInv_of_linkless hinv hp rfl hin (hfree hpos rfl) (by simp) (.inl ⟨rfl, by simp, by simp⟩)
  | notOpened k a d hpos =>
    obtain ⟨hfde, hsink⟩ := hold.fresh hown hph (.inr hpos)
    exact lockInv_of_session_left hinv hp rfl hown rfl rfl hfde hsink rfl (fun _ _ => Iff.rfl) (hfree hpos rfl)
  | talks f polls hpos =>
    have hlink : s.linkOwner ≠ some s.actor := by
      rcases hpos with hpos | hpos | hpos <;> exact hfree hpos rfl
    exact lockInv_of_linkless hinv hp rfl hin hlink (by simp) (.inr rfl)
  | requested _ hfde =>
    exact lockInv_of_linkless hinv hp rfl hin (link_free_of_fdeState hinv hp hph (by simp [hfde])) (by simp)
      (.inl ⟨rfl, by simp, by simp⟩)
  | polled pos _ hfde hnext =>
    have hlink := link_free_of_fdeState hinv hp hph (by simp [hfde])
    rcases hnext with rfl | rfl <;>
      exact lockInv_of_linkless hinv hp rfl hin hlink (by simp) (.inl ⟨rfl, by simp, by simp⟩)
  | started => exact lockInv_of_burst_goes_on hinv hp rfl hin hph rfl rfl
  | turns => exact lockInv_of_burst_goes_on hinv hp rfl hin hph rfl rfl
  | loopEnds => exact lockInv_of_burst_goes_on hinv hp rfl hin hph rfl rfl
  | attempts => exact lockInv_of_burst_goes_on hinv hp rfl hin hph rfl rfl
  | packetEnds => exact lockInv_of_burst_goes_on hinv hp rfl hin hph rfl rfl
  | packetByte q pktbuf hpos => exact lockInv_of_burst_goes_on hinv hp rfl hin hph hph (by rw [hpos]; rfl)
  | attemptFails => exact lockInv_of_burst_goes_on hinv hp rfl hin hph rfl rfl
  | checked => exact lockInv_of_burst_goes_on hinv hp rfl hin hph rfl rfl
  | regressed => exact lockInv_of_burst_goes_on hinv hp rfl hin hph rfl rfl
  | filled => exact lockInv_of_burst_goes_on hinv hp rfl hin hph rfl rfl
  | delivered => exact lockInv_of_burst_goes_on hinv hp rfl hin hph rfl rfl
  | fails => exact lockInv_of_burst_goes_on hinv hp rfl hin hph rfl rfl
  | blockEnds link hpos hlink =>
    refine lockInv_of_session_goes_on hinv hp rfl hin (fun e => absurd rfl ((hlink _).mp e).2) (fun _ e => ?_)
      (.inl ⟨rfl, ?_⟩) fun d hd => (hlink d).trans (and_iff_left hd)
    · simp only [port_runAt_pos] at e
      split at e <;> simp at e
    · simp only [port_runAt_pos]
      split <;> simp
  | ends link k a d st data hpos hlink =>
    refine lockInv_of_session_left hinv hp rfl hown rfl rfl rfl rfl rfl (fun d hd => ?_) fun e => ?_
    · exact (hlink d).trans (and_iff_left fun _ => hd)
    · obtain ⟨hl, habort⟩ := (hlink _).mp e
      rcases hpos with hpos | hpos
      · exact hfree hpos rfl hl
      · exact habort hpos rfl

end Sys2Proof.Machine
end

section
/-! PROOFS of the statements of 10_state.md, part 6: the lock invariant holds after reset and every step of every agent
keeps it. -/

namespace Sys2Proof.Machine

open Sys2Proof Sys2Proof.Config

/-! ## A port's step -/

/-- R202: the session lock is taken. -/
theorem lockInv_of_session_taken {s : State} {p : Port} (hinv : s.lockInv) (hp : s.ports[s.actor]? = some p)
    (hph : p.ph = .run) (hdl : RunsDl s p) (hout : inSession s p = false) (hnone : s.sessionOwner = none) :
    ({ s with sessionOwner := some s.actor }.putPort (p.runAt .create)).lockInv := by
  obtain ⟨hall, _, hrests⟩ := (lockInv_iff s).mp hinv
  have hlink := ((hall _ _ hp).owns_nothing (by rw [hph]; rfl) hout).1
  refine lockInv_of_step hinv hp rfl ⟨rfl, fun _ _ => Iff.rfl, fun d hd => ?_, fun d _ hd => ?_⟩
    ⟨fun e => by simp [Phase.ownsLink] at e, fun e => absurd e hlink, ?_, fun _ _ _ => hrests hnone⟩
    fun e => by simp at e
  · simp [hnone, Ne.symm hd]
  · simp [hnone] at hd
  · have hdl' := (runsDl_congr rfl rfl rfl).mpr hdl
    exact iff_of_true ((inSession_iff_runsDl (by simp) (by simp) (by simp)).mpr hdl') rfl

/-- A step of a download keeps the lock invariant. -/
theorem lockInv_of_dlRun {type counter : Byte} {size : Word} {blen : Half} {s t : State} {p : Port} (hinv : s.lockInv)
    (hp : s.ports[s.actor]? = some p) (hph : p.ph = .run) (hi : fetch s p = .ok (.dl type counter size blen))
    (h : dlRun type counter size blen s p = .next t) : t.lockInv := by
  have hdl : RunsDl s p := ⟨_, _, _, _, hi⟩
  by_cases hpos : p.pos = .start ∨ p.pos = .session
  · have hout := not_inSession_before (s := s) hph hpos
    have howns : p.ph.ownsLink = false := by rw [hph]; rfl
    rcases dlRun_beforeSession hpos h with rfl | rfl | ⟨st, rfl⟩ | ⟨hnone, rfl⟩
    · exact hinv
    · exact lockInv_of_bystander hinv hp rfl ⟨rfl, rfl, rfl, rfl, rfl⟩ howns hout rfl
        (not_inSession_before rfl (.inr rfl))
    · exact lockInv_of_bystander hinv hp rfl ⟨rfl, rfl, rfl, rfl, rfl⟩ howns hout rfl
        (not_inSession_of_done rfl)
    · exact lockInv_of_session_taken hinv hp hph hdl hout hnone
  · obtain ⟨hstart, hsession⟩ := not_or.mp hpos
    have hin := (inSession_iff_runsDl (by simp [hph]) (by simp [hph]) fun _ => ⟨hstart, hsession⟩).mpr hdl
    exact lockInv_of_dlStep hinv hp hph hin (dlStep_of_dlRun hstart hsession h)

/-- A step of a port keeps the lock invariant. -/
theorem lockInv_of_portStep {s t : State} {p : Port} (hinv : s.lockInv) (hp : s.ports[s.actor]? = some p)
    (h : PortStep s p t) : t.lockInv := by
  cases h with
  | stay => exact hinv
  | answer st data csr ov d hph hpos =>
    exact lockInv_of_bystander hinv hp rfl ⟨rfl, rfl, rfl, rfl, rfl⟩ (by rw [hph]; rfl)
      (not_inSession_before hph (.inl hpos)) rfl (not_inSession_of_done rfl)
  | begin hph hpos hdl =>
    have hdl' := mt (runsDl_congr rfl rfl rfl).mp hdl
    exact lockInv_of_bystander hinv hp rfl ⟨rfl, rfl, rfl, rfl, rfl⟩ (by rw [hph]; rfl) (not_inSession_of_not_dl hdl)
      rfl (not_inSession_of_not_dl hdl')
  | respond st data hph hpos hdl =>
    exact lockInv_of_bystander hinv hp rfl ⟨rfl, rfl, rfl, rfl, rfl⟩ (by rw [hph]; rfl) (not_inSession_of_not_dl hdl)
      rfl (not_inSession_of_done rfl)
  | converse _ hi hcall h => exact lockInv_of_converse hinv hp hi hcall h
  | download hph hi h => exact lockInv_of_dlRun hinv hp hph hi h

/-! ## Reset (R55) -/

/-- A quiescent block owns no lock and needs none. -/
theorem lockInv_of_quiescent {s : State} (h : s.quiescent) : s.lockInv := by
  obtain ⟨hended, hlink, hsession, hfde, hsink⟩ := h
  refine (lockInv_iff s).mpr ⟨fun c p hp => ?_, fun c hc => ?_, fun _ => ⟨hfde, hsink⟩⟩
  · have hidle := hended p (List.mem_of_getElem? hp)
    exact portLocks_of_owns_nothing (by rw [hidle]; rfl) (not_inSession_of_idle hidle) (by simp [hlink])
      (by simp [hsession])
  · simp [hlink, hsession] at hc

theorem resetWith_clean (g : Params) : (State.resetWith g).clean :=
  ⟨⟨fun _ hp => by rw [List.eq_of_mem_replicate hp]; rfl, rfl, rfl, rfl, rfl⟩, rfl, rfl, rfl⟩

/-- RESET leaves the block as quiescent as `State.resetWith` is. -/
theorem resetBlock_quiescent (s : State) : (resetBlock s).quiescent := (resetWith_clean s.cfg).1

/-! ## Every step -/

/-- An invariant that does not look at the schedule and the draws, and that every move keeps, is kept by every step. -/
theorem step_keeps {I : State → Prop} (hskip : ∀ s q d, I s → I { s with schedule := q, draws := d })
    (hperform : ∀ m s t, s.cfg.legal = true → I s → perform m s = .next t → I t) {s t : State} (hs : I s)
    (h : step s = .next t) : I t := by
  obtain ⟨q, d, hnext⟩ := nextMove_frame s
  obtain ⟨hlegal, h⟩ := step_next h
  rw [hnext] at h
  exact hperform _ { s with schedule := q, draws := d } t hlegal (hskip s q d hs) h

/-- Every move of every agent keeps the lock invariant. -/
theorem perform_lockInv {m : Move} {s t : State} (hinv : s.lockInv) (h : perform m s = .next t) : t.lockInv := by
  cases m with
  | issue c d =>
    obtain ⟨p, hp, hidle, rfl⟩ := issue_next h
    exact lockInv_of_bystander hinv hp rfl ⟨rfl, rfl, rfl, rfl, rfl⟩ (by rw [hidle]; rfl)
      (not_inSession_of_idle hidle) rfl (not_inSession_before rfl (.inl rfl))
  | collect c =>
    obtain ⟨p, hp, hdone, rfl⟩ := collect_next h
    exact lockInv_of_bystander hinv hp rfl ⟨rfl, rfl, rfl, rfl, rfl⟩ (by rw [hdone]; rfl)
      (not_inSession_of_done hdone) rfl (not_inSession_of_idle rfl)
  | port c =>
    rcases portStep_of_runPort h with rfl | ⟨p, hp, _, _, h⟩
    · exact hinv
    · exact lockInv_of_portStep (s := { s with actor := c }) hinv hp h
  | rx b =>
    obtain rfl := Host.Outcome.next.inj h
    have hsame : SameLocks s (rxPush b s) ∧ (rxPush b s).ports = s.ports := by
      rcases rxPush_cases b s with ⟨_, e⟩ | ⟨_, e⟩ <;> rw [e] <;> exact ⟨⟨rfl, rfl, rfl, rfl, rfl⟩, rfl⟩
    exact hsame.1.lockInv hsame.2 hinv
  | tx =>
    obtain rfl := Host.Outcome.next.inj h
    exact hinv
  | tick =>
    obtain rfl := Host.Outcome.next.inj h
    exact hinv
  | sink ok =>
    obtain rfl := Host.Outcome.next.inj h
    exact hinv
  | reset =>
    obtain rfl := Host.Outcome.next.inj h
    exact lockInv_of_quiescent (resetBlock_quiescent s)

/-- Settles O53: an invariant port by port, kept by the port that steps (`lockInv_of_portStep`) and left alone for the
others. -/
theorem everyStepKeepsTheLocks : Obligations.EveryStepKeepsTheLocks := by
  intro s t hinv h
  exact step_keeps (I := State.lockInv) (fun _ _ _ hs => hs) (fun _ _ _ _ hs => perform_lockInv hs) hinv h

end Sys2Proof.Machine
end

section
/-! PROOFS of the statements of 10_state.md, part 7: the registers of a download, of the port that owns the session: the
latched parameters, the byte budget of a block, the widths (R32, R33; 42_download.md R203 to R214). -/

namespace Sys2Proof.Machine

open Sys2Proof Sys2Proof.Config

/-! ## Arithmetic of a block -/

/-- `ceil_div` as the least count of packets that covers the block (R9, R207). -/
theorem ceilDiv_le_iff {a b n : Nat} (hb : 0 < b) : ceilDiv a b ≤ n ↔ a ≤ b * n := by
  have h : a ⌈/⌉ b ≤ n ↔ a ≤ b • n := ceilDiv_le_iff_le_smul hb
  rwa [Nat.ceilDiv_eq_add_pred_div, smul_eq_mul] at h

/-- A block has at most as many packets as bytes. -/
theorem ceilDiv_le_self {a b : Nat} (hb : 0 < b) : ceilDiv a b ≤ a :=
  (ceilDiv_le_iff hb).mpr (Nat.le_mul_of_pos_left a hb)

/-- The bytes left of a block after one more index (R209, R210): each index takes its share of the length. -/
theorem rem_after_share {rem idx pdl len : Nat} (h : rem + min (idx * pdl) len = len) :
    rem - min pdl rem + min ((idx + 1) * pdl) len = len := by
  rw [Nat.succ_mul]
  omega

theorem packetCounter_le (g : Params) (d : List Byte) : packetCounter g d ≤ 65535 := by
  have hlow := (d.getD g.pktSeqOff 0).isLt
  have hhigh := (d.getD (g.pktSeqOff + 1) 0).isLt
  rw [packetCounter_eq]
  omega

/-! ## The registers as the position says -/

/-- The latched parameters are legal and the offset is below the size. -/
structure SessionLatched (s : State) : Prop where
  pdl : 1 ≤ s.dlPdl.toNat ∧ s.dlPdl.toNat ≤ s.cfg.maxPktData
  blockLen : 1 ≤ s.dlBlockLen.toNat
  offset : s.dlOffset < s.dlSize.toNat

/-- The receive loop's budget: what is left of the block. -/
structure LoopBudget (s : State) : Prop where
  npk : s.npk = ceilDiv s.dlBlockLen.toNat s.dlPdl.toNat
  rem : s.rem + min (s.idx * s.dlPdl.toNat) s.dlBlockLen.toNat = s.dlBlockLen.toNat

/-- The positions inside the receive loop. -/
def RunPos.inLoop (pos : RunPos) : Prop :=
  pos = .loop ∨ pos = .attempt ∨ pos = .packet ∨ pos = .check ∨ pos = .deliver

/-- What the budget invariant says of the session's owner. -/
def PortBudget (s : State) (p : Port) : Prop := s.sessionRegs p ∧ (p.ph = .run → s.blockRegs p)

theorem SessionLatched.sessionRegs {s : State} (h : SessionLatched s) (p : Port) : s.sessionRegs p :=
  fun _ => ⟨h.pdl, h.blockLen, fun _ => h.offset⟩

theorem sessionLatched_of_regs {s : State} {p : Port} (h : s.sessionRegs p) (hcreate : ¬(p.ph = .run ∧ p.pos = .create))
    (hclose : ¬(p.ph = .run ∧ p.pos = .close)) : SessionLatched s :=
  have ⟨hpdl, hlen, hoffset⟩ := h hcreate
  ⟨hpdl, hlen, hoffset hclose⟩

/-- Nothing is asked of the block's registers outside the receive loop and its end. -/
theorem blockRegs_outside {s : State} {p : Port} (hloop : ¬p.pos.inLoop) (hend : p.pos ≠ .blockEnd) :
    s.blockRegs p := by
  simp only [RunPos.inLoop, not_or] at hloop
  obtain ⟨h1, h2, h3, h4, h5⟩ := hloop
  simp [State.blockRegs, h1, h2, h3, h4, h5, hend]

/-- A session that goes on outside the receive loop. -/
theorem SessionLatched.portBudget {s : State} {p : Port} (h : SessionLatched s) (hloop : p.ph = .run → ¬p.pos.inLoop)
    (hend : p.ph = .run → p.pos ≠ .blockEnd) : PortBudget s p :=
  ⟨h.sessionRegs p, fun hph => blockRegs_outside (hloop hph) (hend hph)⟩

/-- A session that goes on inside the receive loop. -/
theorem SessionLatched.portBudget_loop {s : State} {p : Port} (h : SessionLatched s) (hloop : LoopBudget s)
    (hpos : p.pos.inLoop) (hdeliver : p.pos = .deliver → s.idx ≤ s.seq)
    (hpacket : p.pos = .packet → p.k < s.cfg.pktLen s.dlPdl.toNat) : PortBudget s p := by
  refine ⟨h.sessionRegs p, fun _ => ⟨fun _ => ⟨hloop.npk, hloop.rem⟩, fun hend => ?_, hdeliver, hpacket⟩⟩
  rcases hpos with e | e | e | e | e <;> simp [e] at hend

/-- The budget and the widths after a step of port `c` that owned the session, if it still owns it. -/
def BudgetAfter (s t : State) (c : Nat) : Prop :=
  t.widthInv ∧ ∃ p', t.ports = s.ports.set c p' ∧ (t.sessionOwner = some c → PortBudget t p')

section

variable {s t : State} {c : Nat} {p p' : Port}

theorem SessionLatched.congr (h : SessionLatched s) (hcfg : t.cfg = s.cfg) (hpdl : t.dlPdl = s.dlPdl)
    (hlen : t.dlBlockLen = s.dlBlockLen) (hoffset : t.dlOffset = s.dlOffset) (hsize : t.dlSize = s.dlSize) :
    SessionLatched t := by
  refine ⟨?_, ?_, ?_⟩
  · rw [hpdl, hcfg]
    exact h.pdl
  · rw [hlen]
    exact h.blockLen
  · rw [hoffset, hsize]
    exact h.offset

/-- The step leads out of the receive loop, or stays outside it. -/
theorem budgetAfter_outside (h : SessionLatched s) (hports : t.ports = s.ports.set c p') (hw : t.widthInv)
    (hpos : p'.ph = .run → ¬p'.pos.inLoop ∧ p'.pos ≠ .blockEnd) (hcfg : t.cfg = s.cfg := by rfl)
    (hpdl : t.dlPdl = s.dlPdl := by rfl) (hlen : t.dlBlockLen = s.dlBlockLen := by rfl)
    (hoffset : t.dlOffset = s.dlOffset := by rfl) (hsize : t.dlSize = s.dlSize := by rfl) : BudgetAfter s t c :=
  ⟨hw, p', hports, fun _ => (h.congr hcfg hpdl hlen hoffset hsize).portBudget (fun e => (hpos e).1) fun e => (hpos e).2⟩

/-- The step stays inside the receive loop, or leads into it. -/
theorem budgetAfter_loop (h : SessionLatched s) (hports : t.ports = s.ports.set c p') (hw : t.widthInv)
    (hloop : LoopBudget t) (hpos : p'.pos.inLoop) (hdeliver : p'.pos = .deliver → t.idx ≤ t.seq)
    (hpacket : p'.pos = .packet → p'.k < t.cfg.pktLen t.dlPdl.toNat) (hcfg : t.cfg = s.cfg := by rfl)
    (hpdl : t.dlPdl = s.dlPdl := by rfl) (hlen : t.dlBlockLen = s.dlBlockLen := by rfl)
    (hoffset : t.dlOffset = s.dlOffset := by rfl) (hsize : t.dlSize = s.dlSize := by rfl) : BudgetAfter s t c :=
  ⟨hw, p', hports, fun _ => (h.congr hcfg hpdl hlen hoffset hsize).portBudget_loop hloop hpos hdeliver hpacket⟩

/-- The step gives the session back. -/
theorem budgetAfter_left (hports : t.ports = s.ports.set c p') (hw : t.widthInv) (hsession : t.sessionOwner = none) :
    BudgetAfter s t c :=
  ⟨hw, p', hports, fun e => by simp [hsession] at e⟩

theorem loopBudget_of_portBudget (h : PortBudget s p) (hph : p.ph = .run) (hpos : p.pos.inLoop) : LoopBudget s :=
  have ⟨hnpk, hrem⟩ := (h.2 hph).1 hpos
  ⟨hnpk, hrem⟩

/-- The loop's budget does not look at the cursors of the packet read. -/
theorem LoopBudget.congr (h : LoopBudget s) (hpdl : t.dlPdl = s.dlPdl := by rfl)
    (hlen : t.dlBlockLen = s.dlBlockLen := by rfl) (hnpk : t.npk = s.npk := by rfl) (hrem : t.rem = s.rem := by rfl)
    (hidx : t.idx = s.idx := by rfl) : LoopBudget t := by
  refine ⟨?_, ?_⟩
  · rw [hnpk, hlen, hpdl]
    exact h.npk
  · rw [hrem, hidx, hlen, hpdl]
    exact h.rem

/-- One more index of the block is written (R209, R210). -/
theorem LoopBudget.next_index (h : LoopBudget s) (hpdl : t.dlPdl = s.dlPdl) (hlen : t.dlBlockLen = s.dlBlockLen)
    (hnpk : t.npk = s.npk) (hrem : t.rem = s.rem - blockShare s) (hidx : t.idx = s.idx + 1) : LoopBudget t := by
  refine ⟨?_, ?_⟩
  · rw [hnpk, hlen, hpdl]
    exact h.npk
  · rw [hrem, hidx, hlen, hpdl]
    exact rem_after_share h.rem

/-- When the loop has ended nothing is left of the block (R213). -/
theorem LoopBudget.rem_eq_zero (h : LoopBudget s) (hpdl : 1 ≤ s.dlPdl.toNat) (hend : s.npk ≤ s.idx) : s.rem = 0 := by
  have hcover : s.dlBlockLen.toNat ≤ s.idx * s.dlPdl.toNat := by
    rw [mul_comm]
    exact (ceilDiv_le_iff hpdl).mp (h.npk ▸ hend)
  have hrem := h.rem
  omega

end

/-! ## A step of the session's owner -/

section

variable {type counter : Byte} {size : Word} {blen : Half} {s t : State} {p : Port}

/-- `create` (R203): the latched parameters are legal. -/
theorem latchSession_latched (hcsr : s.csrLegal)
    (hlegal : (Instr.dl type counter size blen).operandsLegal s.cfg = true) :
    SessionLatched (latchSession type counter size blen s) := by
  obtain ⟨_, hpdl, _⟩ := hcsr
  simp only [Instr.operandsLegal, Bool.and_eq_true, bne_iff_ne, ne_eq] at hlegal
  obtain ⟨hsize, hblen⟩ := hlegal
  refine ⟨hpdl, ?_, ?_⟩
  · show 1 ≤ blen.toNat
    bv_omega
  · show 0 < size.toNat
    bv_omega

/-- `create` (R203): the retry budget latched has its 16 bits. -/
theorem latchSession_width (hcsr : s.csrLegal) (hw : s.widthInv) : (latchSession type counter size blen s).widthInv :=
  have ⟨hnpk, hidx, hrem, hseq, htries, _, _⟩ := hw
  ⟨hnpk, hidx, hrem, hseq, htries, Nat.le_of_lt_succ hcsr.1, Nat.zero_lt_succ _⟩

/-- R207: the receive loop is set up for the whole block. -/
theorem budget_of_started (h : SessionLatched s) (hw : s.widthInv) :
    BudgetAfter s
      ({ s with
        npk := ceilDiv s.dlBlockLen.toNat s.dlPdl.toNat
        rem := s.dlBlockLen.toNat
        idx := 0
        indexSet := true }.putPort (p.runAt .loop)) s.actor := by
  obtain ⟨_, _, _, hseq, htries, hretry, hoffset⟩ := hw
  have hlen : s.dlBlockLen.toNat ≤ 65535 := Nat.le_of_lt_succ s.dlBlockLen.isLt
  exact budgetAfter_loop h rfl
    ⟨(ceilDiv_le_self h.pdl.1).trans hlen, Nat.zero_le _, hlen, hseq, htries, hretry, hoffset⟩
    ⟨rfl, by simp⟩ (.inl rfl) (by simp) (by simp)

/-- R209, R210: the widths after one more index. -/
theorem widthInv_next_index (hw : s.widthInv) (hidx : s.idx ≤ s.seq) (k : Sink) (a : List Bool) (d : Nat) :
    State.widthInv { s with sink := k, sinkAnswers := a, draws := d, rem := s.rem - blockShare s, idx := s.idx + 1 } :=
  have ⟨hnpk, _, hrem, hseq, htries, hretry, hoffset⟩ := hw
  ⟨hnpk, Nat.succ_le_succ (hidx.trans hseq), (Nat.sub_le _ _).trans hrem, hseq, htries, hretry, hoffset⟩

/-- R214: a complete block moves the offset, which stays within 33 bits. -/
theorem budget_of_blockEnds (h : SessionLatched s) (hw : s.widthInv) (link : Option Nat) :
    BudgetAfter s
      ({ s with
        linkOwner := link
        fdeState := .blockComplete
        dlOffset := s.dlOffset + s.dlBlockLen.toNat }.putPort
          (p.runAt (if s.dlSize.toNat ≤ s.dlOffset + s.dlBlockLen.toNat then .close else .request))) s.actor := by
  obtain ⟨hnpk, hidx, hrem, hseq, htries, hretry, _⟩ := hw
  have hlen := s.dlBlockLen.isLt
  have hsize := s.dlSize.isLt
  have hoffset := h.offset
  have hwide : s.dlOffset + s.dlBlockLen.toNat < 8589934592 := by omega
  refine ⟨⟨hnpk, hidx, hrem, hseq, htries, hretry, hwide⟩, _, rfl, fun _ => ?_⟩
  split
  case isTrue =>
    exact ⟨fun _ => ⟨h.pdl, h.blockLen, fun e => absurd ⟨rfl, rfl⟩ e⟩,
      fun _ => blockRegs_outside (by simp [RunPos.inLoop]) (by simp)⟩
  case isFalse hmore =>
    exact SessionLatched.portBudget ⟨h.pdl, h.blockLen, Nat.lt_of_not_le hmore⟩ (by simp [RunPos.inLoop]) (by simp)

/-- A step of the session's owner outside the conversations keeps the budget and the widths. -/
theorem budget_of_dlStep (hp : s.ports[s.actor]? = some p) (hcsr : s.csrLegal)
    (hlegal : (Instr.dl type counter size blen).operandsLegal s.cfg = true) (hph : p.ph = .run) (hb : PortBudget s p)
    (hw : s.widthInv) (h : DlStep type counter size blen s p t) : BudgetAfter s t s.actor := by
  have latched {pos : RunPos} (hpos : p.pos = pos) (h1 : pos ≠ .create) (h2 : pos ≠ .close) : SessionLatched s :=
    sessionLatched_of_regs hb.1 (by simp [hpos, h1]) (by simp [hpos, h2])
  have loop (hpos : p.pos.inLoop) : LoopBudget s := loopBudget_of_portBudget hb hph hpos
  have hcreated : (latchSession type counter size blen s).widthInv := latchSession_width hcsr hw
  obtain ⟨_, _, hdeliver, hpacket⟩ := hb.2 hph
  have ⟨hnpk, hidx, hrem, hseq, htries, hretry, hoffset⟩ := hw
  cases h with
  | stay => exact ⟨hw, p, (set_self hp).symm, fun _ => hb⟩
  | created =>
    have hlatched := latchSession_latched hcsr hlegal
    exact ⟨hcreated, _, rfl, fun _ =>
      (hlatched.congr rfl rfl rfl rfl rfl).portBudget (by simp [RunPos.inLoop]) (by simp)⟩
  | refused => exact budgetAfter_left rfl hcreated rfl
  | opened k a d hpos =>
    exact budgetAfter_outside (latched hpos (by decide) (by decide)) rfl hw (by simp [RunPos.inLoop])
  | notOpened => exact budgetAfter_left rfl hw rfl
  | talks f polls hpos =>
    have hlatched : SessionLatched s := by
      rcases hpos with hpos | hpos | hpos <;> exact latched hpos (by decide) (by decide)
    exact budgetAfter_outside hlatched rfl hw (by simp)
  | requested hpos =>
    exact budgetAfter_outside (latched hpos (by decide) (by decide)) rfl hw (by simp [RunPos.inLoop])
  | polled pos hpos _ hnext =>
    have houtside : ¬pos.inLoop ∧ pos ≠ .blockEnd := by rcases hnext with rfl | rfl <;> simp [RunPos.inLoop]
    exact budgetAfter_outside (latched hpos (by decide) (by decide)) rfl hw fun _ => houtside
  | started hpos => exact budget_of_started (latched hpos (by decide) (by decide)) hw
  | turns hpos =>
    exact budgetAfter_loop (latched hpos (by decide) (by decide)) rfl
      ⟨hnpk, hidx, hrem, hseq, Nat.succ_le_succ hretry, hretry, hoffset⟩ (loop (.inl hpos)).congr (.inr (.inl rfl))
      (by simp) (by simp)
  | loopEnds hpos hend =>
    have hlatched := latched hpos (by decide) (by decide)
    have hzero := (loop (.inl hpos)).rem_eq_zero hlatched.pdl.1 hend
    exact ⟨hw, _, rfl, fun _ => ⟨(hlatched.congr rfl rfl rfl rfl rfl).sessionRegs _,
      fun _ => ⟨by simp, fun _ => hzero, by simp, by simp⟩⟩⟩
  | attempts hpos =>
    exact budgetAfter_loop (latched hpos (by decide) (by decide)) rfl
      ⟨hnpk, hidx, hrem, hseq, (Nat.sub_le _ _).trans htries, hretry, hoffset⟩ (loop (.inr (.inl hpos))).congr
      (.inr (.inr (.inl rfl))) (by simp) (fun _ => by simp [Params.pktLen])
  | packetEnds q pktbuf hpos =>
    exact budgetAfter_loop (latched hpos (by decide) (by decide)) rfl hw (loop (.inr (.inr (.inl hpos)))).congr
      (.inr (.inr (.inr (.inl rfl)))) (by simp) (by simp)
  | packetByte q pktbuf hpos hmore =>
    exact budgetAfter_loop (latched hpos (by decide) (by decide)) rfl hw (loop (.inr (.inr (.inl hpos)))).congr
      (.inr (.inr (.inl hpos))) (by simp [hpos]) fun _ => lt_of_le_of_ne (hpacket hpos) hmore
  | attemptFails hpos =>
    exact budgetAfter_loop (latched hpos (by decide) (by decide)) rfl hw (loop (.inr (.inr (.inl hpos)))).congr
      (.inr (.inl rfl)) (by simp) (by simp)
  | checked hpos hcounter =>
    exact budgetAfter_loop (latched hpos (by decide) (by decide)) rfl
      ⟨hnpk, hidx, hrem, packetCounter_le _ _, htries, hretry, hoffset⟩ (loop (.inr (.inr (.inr (.inl hpos))))).congr
      (.inr (.inr (.inr (.inr rfl)))) (fun _ => hcounter) (by simp)
  | regressed hpos =>
    exact budgetAfter_outside (latched hpos (by decide) (by decide)) rfl
      ⟨hnpk, hidx, hrem, packetCounter_le _ _, htries, hretry, hoffset⟩ (by simp [RunPos.inLoop])
  | filled k a d hpos hbelow =>
    exact budgetAfter_loop (latched hpos (by decide) (by decide)) rfl (widthInv_next_index hw (hdeliver hpos) k a d)
      ((loop (.inr (.inr (.inr (.inr hpos))))).next_index rfl rfl rfl rfl rfl) (.inr (.inr (.inr (.inr rfl))))
      (fun _ => hbelow) (by simp)
  | delivered k a d hpos =>
    exact budgetAfter_loop (latched hpos (by decide) (by decide)) rfl (widthInv_next_index hw (hdeliver hpos) k a d)
      ((loop (.inr (.inr (.inr (.inr hpos))))).next_index rfl rfl rfl rfl rfl) (.inl rfl) (by simp) (by simp)
  | fails k a d st data hpos =>
    have hlatched : SessionLatched s := by
      rcases hpos with hpos | hpos | hpos | hpos <;> exact latched hpos (by decide) (by decide)
    exact budgetAfter_outside hlatched rfl hw (by simp [RunPos.inLoop])
  | blockEnds link hpos => exact budget_of_blockEnds (latched hpos (by decide) (by decide)) hw link
  | ends => exact budgetAfter_left rfl hw rfl

end

end Sys2Proof.Machine
end

section
/-! PROOFS of the statements of 10_state.md, part 8: the run invariant, part by part, through every step of a port. -/

namespace Sys2Proof.Machine

open Sys2Proof Sys2Proof.Config

section

variable {s t : State} {p p' : Port}

/-! ## The control registers (R37) -/

/-- A legal write leaves every configuration register legal. -/
theorem csrLegal_of_write {r : Csr} {v : Word} (h : s.csrLegal) (hlegal : r.writeLegal s.cfg v = true)
    (hcfg : t.cfg = s.cfg) (hcsr : t.csr = csrWrite s.csr r v) : t.csrLegal := by
  unfold State.csrLegal
  rw [hcsr, hcfg]
  obtain ⟨hretry, hpdl, hfill⟩ := h
  cases r with
  | pktRetryBudget => exact ⟨of_decide_eq_true hlegal, hpdl, hfill⟩
  | pktDataLen =>
    obtain ⟨hlow, hhigh⟩ := (Bool.and_eq_true _ _).mp hlegal
    exact ⟨hretry, ⟨of_decide_eq_true hlow, of_decide_eq_true hhigh⟩, hfill⟩
  | gapFillByte => exact ⟨hretry, hpdl, of_decide_eq_true hlegal⟩
  | _ => exact ⟨hretry, hpdl, hfill⟩

theorem csrLegal_congr (h : s.csrLegal) (hcfg : t.cfg = s.cfg) (hcsr : t.csr = s.csr) : t.csrLegal := by
  unfold State.csrLegal
  rw [hcsr, hcfg]
  exact h

/-- A port's step leaves the control registers or makes a legal write. -/
theorem portStep_csr (hp : s.ports[s.actor]? = some p) (h : PortStep s p t) :
    t.csr = s.csr ∨ ∃ (r : Csr) (v : Word), r.writeLegal s.cfg v = true ∧ t.csr = csrWrite s.csr r v := by
  cases h with
  | stay => exact .inl rfl
  | answer _ _ _ _ _ _ _ hcsr => exact hcsr
  | begin => exact .inl rfl
  | respond => exact .inl rfl
  | converse _ _ _ h =>
    obtain ⟨_, _, _, _, _, _, _, _, _, _, rfl, _⟩ := converse_frame hp h
    exact .inl rfl
  | download _ _ h =>
    obtain ⟨_, _, hframe, _⟩ := dlRun_frame hp h
    exact .inl hframe.csr

theorem portStep_csrLegal (hp : s.ports[s.actor]? = some p) (h : PortStep s p t) (hs : s.csrLegal) : t.csrLegal := by
  have hcfg := (portStep_frame hp h).1.cfg
  rcases portStep_csr hp h with hcsr | ⟨r, v, hlegal, hcsr⟩
  · exact csrLegal_congr hs hcfg hcsr
  · exact csrLegal_of_write hs hlegal hcfg hcsr

/-! ## Decode comes first (R114) -/

/-- What the decode invariant says of one port. -/
def PortDecoded (s : State) (p : Port) : Prop :=
  ∀ i, fetch s p = .ok i → p.ph ≠ .idle → p.ph ≠ .done → ¬(p.ph = .run ∧ p.pos = .start) → i.operandsLegal s.cfg = true

theorem portDecoded_congr (hcfg : t.cfg = s.cfg) (h : PortDecoded s p) : PortDecoded t p := by
  unfold PortDecoded
  rw [fetch_congr hcfg rfl rfl, hcfg]
  exact h

/-- The invariant is kept when the port written keeps its part. -/
theorem decodedInv_of_step {c : Nat} (hs : s.decodedInv) (hcfg : t.cfg = s.cfg) (hports : t.ports = s.ports.set c p')
    (hmine : PortDecoded t p') : t.decodedInv := by
  have hall : ∀ d q, t.ports[d]? = some q → PortDecoded t q :=
    forall_ports_set hports hmine fun d q _ hq => portDecoded_congr hcfg fun i => hs d q i hq
  exact fun d q i hq => hall d q hq i

theorem portStep_decodedInv (hp : s.ports[s.actor]? = some p) (hidle : p.ph ≠ .idle) (hdone : p.ph ≠ .done)
    (h : PortStep s p t) (hs : s.decodedInv) : t.decodedInv := by
  obtain ⟨hframe, p', hports, hdesc, hlen, hstart⟩ := portStep_frame hp h
  refine decodedInv_of_step hs hframe.cfg hports fun i hi _ hdone' hpast => ?_
  rw [fetch_congr hframe.cfg hdesc hlen] at hi
  rw [hframe.cfg]
  by_cases hbegin : p.ph = .run ∧ p.pos = .start
  · rcases hstart hbegin.1 hbegin.2 with rfl | e | hlegal
    · exact absurd hbegin hpast
    · exact absurd e hdone'
    · exact hlegal i hi
  · exact hs _ _ i hp hi hidle hdone hbegin

/-! ## The session's registers (R32, R33) -/

theorem widthInv_congr (hsame : SameSession s t) (hs : s.widthInv) : t.widthInv := by
  unfold State.widthInv
  rw [hsame.npk, hsame.idx, hsame.rem, hsame.seq, hsame.tries, hsame.dlRetry, hsame.dlOffset]
  exact hs

theorem portBudget_congr (hsame : SameSession s t) (hcfg : t.cfg = s.cfg) (hs : PortBudget s p) : PortBudget t p := by
  unfold PortBudget State.sessionRegs State.blockRegs
  rw [hsame.npk, hsame.idx, hsame.rem, hsame.seq, hsame.dlOffset, hsame.dlPdl, hsame.dlBlockLen, hsame.dlSize, hcfg]
  exact hs

/-- Only the acting port's part of the budget is to be shown: another port that owns the session owned it before, and
then the step is of a port out of session. -/
theorem budgetInv_of_step {c : Nat} (hlock : s.lockInv) (hlock' : t.lockInv) (hp : s.ports[c]? = some p)
    (hs : s.budgetInv) (hcfg : t.cfg = s.cfg) (hports : t.ports = s.ports.set c p')
    (hsame : inSession s p = false → SameSession s t)
    (hmine : t.sessionOwner = some c → PortBudget t p') : t.budgetInv := by
  obtain ⟨hold, _⟩ := (lockInv_iff s).mp hlock
  obtain ⟨hnew, _⟩ := (lockInv_iff t).mp hlock'
  have hall : ∀ d q, t.ports[d]? = some q → t.sessionOwner = some d → PortBudget t q := by
    refine forall_ports_set hports hmine fun d q hd hq hown => ?_
    have hq' : t.ports[d]? = some q := by rw [hports, List.getElem?_set_ne (Ne.symm hd), hq]
    have hin : inSession s q = true := by
      rw [← inSession_congr hcfg rfl rfl rfl rfl]
      exact (hnew d q hq').session.mpr hown
    have hown' := (hold d q hq).session.mp hin
    have hout : inSession s p = false := by
      rw [Bool.eq_false_iff]
      exact fun h => hd (Option.some.inj (hown'.symm.trans ((hold c p hp).session.mp h)))
    exact portBudget_congr (hsame hout) hcfg (hs d q hq hown')
  exact hall

/-- A port out of session enters one only at `create`, where nothing is asked of the registers yet. -/
theorem portStep_enters_session (hp : s.ports[s.actor]? = some p) (hidle : p.ph ≠ .idle) (hdone : p.ph ≠ .done)
    (h : PortStep s p t) (hout : inSession s p = false) :
    ∃ p', t.ports = s.ports.set s.actor p' ∧ (inSession t p' = true → p'.ph = .run ∧ p'.pos = .create) := by
  have never {q : Port} (hports : t.ports = s.ports.set s.actor q) (hq : inSession t q = false) :
      ∃ p', t.ports = s.ports.set s.actor p' ∧ (inSession t p' = true → p'.ph = .run ∧ p'.pos = .create) :=
    ⟨q, hports, fun hin => by simp [hq] at hin⟩
  have hnodl (hpos : p.ph = .run → p.pos ≠ .start ∧ p.pos ≠ .session) : ¬RunsDl s p := fun hdl => by
    simp [(inSession_iff_runsDl hidle hdone hpos).mpr hdl] at hout
  cases h with
  | stay => exact never (set_self hp).symm hout
  | answer => exact never rfl (not_inSession_of_done rfl)
  | begin _ _ hdl => exact never rfl (not_inSession_of_not_dl (mt (runsDl_congr rfl rfl rfl).mp hdl))
  | respond => exact never rfl (not_inSession_of_done rfl)
  | converse hph _ _ h =>
    obtain ⟨_, _, _, _, _, _, _, _, _, p', rfl, hdesc, hlen, _⟩ := converse_frame hp h
    exact never rfl
      (not_inSession_of_not_dl (mt (runsDl_congr rfl hdesc hlen).mp (hnodl fun e => absurd e hph)))
  | download hph hi h =>
    have hpos : p.pos = .start ∨ p.pos = .session := by
      by_contra hpos
      exact hnodl (fun _ => not_or.mp hpos) ⟨_, _, _, _, hi⟩
    rcases dlRun_beforeSession hpos h with rfl | rfl | ⟨_, rfl⟩ | ⟨_, rfl⟩
    · exact never (set_self hp).symm hout
    · exact never rfl (not_inSession_before rfl (.inr rfl))
    · exact never rfl (not_inSession_of_done rfl)
    · exact ⟨_, rfl, fun _ => ⟨rfl, rfl⟩⟩

theorem portBudget_of_create (hph : p.ph = .run) (hpos : p.pos = .create) : PortBudget s p :=
  ⟨fun h => absurd ⟨hph, hpos⟩ h, fun _ => blockRegs_outside (by simp [hpos, RunPos.inLoop]) (by simp [hpos])⟩

/-- A conversation of the session's owner keeps the budget: it changes no register of the session and returns outside
the receive loop. -/
theorem budget_of_converse {call : Call} (hp : s.ports[s.actor]? = some p) (hph : p.ph ≠ .run) (hb : PortBudget s p)
    (hw : s.widthInv) (h : converse call s p = .next t) : BudgetAfter s t s.actor := by
  have hlatched : SessionLatched s := sessionLatched_of_regs hb.1 (fun e => hph e.1) fun e => hph e.1
  obtain ⟨_, _, _, _, _, _, _, _, _, p', rfl, _, _, hret⟩ := converse_frame hp h
  refine budgetAfter_outside hlatched rfl hw fun hrun => ?_
  have hpos : p'.pos = .ret := by
    rcases hret with e | e | e
    · exact absurd (e.symm.trans hrun) hph
    · exact absurd hrun e
    · exact e
  simp [hpos, RunPos.inLoop]

/-- A step of the session's owner keeps the budget and the widths. -/
theorem portStep_budget (hp : s.ports[s.actor]? = some p) (hcsr : s.csrLegal) (hdecoded : s.decodedInv)
    (hin : inSession s p = true) (hb : PortBudget s p) (hw : s.widthInv) (h : PortStep s p t) :
    BudgetAfter s t s.actor := by
  obtain ⟨hdl, hidle, hdone, hpast⟩ := (inSession_iff s p).mp hin
  cases h with
  | stay => exact ⟨hw, p, (set_self hp).symm, fun _ => hb⟩
  | answer _ _ _ _ _ hph hpos => exact absurd hpos (hpast hph).1
  | begin hph hpos => exact absurd hpos (hpast hph).1
  | respond _ _ _ _ hno => exact absurd hdl hno
  | converse hph _ _ h => exact budget_of_converse hp hph hb hw h
  | download hph hi h =>
    obtain ⟨hstart, hsession⟩ := hpast hph
    have hlegal := hdecoded _ _ _ hp hi hidle hdone fun e => hstart e.2
    exact budget_of_dlStep hp hcsr hlegal hph hb hw (dlStep_of_dlRun hstart hsession h)

/-- A port's step keeps the session's registers as the owner's position says, within their widths. -/
theorem portStep_sessionInv (hp : s.ports[s.actor]? = some p) (hidle : p.ph ≠ .idle) (hdone : p.ph ≠ .done)
    (hcsr : s.csrLegal) (hdecoded : s.decodedInv) (hlock : s.lockInv) (hlock' : t.lockInv) (hs : s.budgetInv)
    (hw : s.widthInv) (h : PortStep s p t) : t.budgetInv ∧ t.widthInv := by
  have hcfg := (portStep_frame hp h).1.cfg
  have hsame := portStep_session hp h
  obtain ⟨hold, _⟩ := (lockInv_iff s).mp hlock
  obtain ⟨hnew, _⟩ := (lockInv_iff t).mp hlock'
  cases hin : inSession s p with
  | true =>
    have hb := hs _ _ hp ((hold _ _ hp).session.mp hin)
    obtain ⟨hw', p', hports, hmine⟩ := portStep_budget hp hcsr hdecoded hin hb hw h
    exact ⟨budgetInv_of_step hlock hlock' hp hs hcfg hports hsame hmine, hw'⟩
  | false =>
    obtain ⟨p', hports, henters⟩ := portStep_enters_session hp hidle hdone h hin
    refine ⟨budgetInv_of_step hlock hlock' hp hs hcfg hports hsame fun hown => ?_, widthInv_congr (hsame hin) hw⟩
    have hp' : t.ports[s.actor]? = some p' := by
      rw [hports, List.getElem?_set_self (List.getElem?_eq_some_iff.mp hp).1]
    obtain ⟨hph, hpos⟩ := henters ((hnew _ _ hp').session.mpr hown)
    exact portBudget_of_create hph hpos

/-! ## The staging cursors (41_transport.md R155, R156) -/

/-- What the cursor invariant says of a port in the conversation `call`. -/
def CallCursor (call : Call) (s : State) (p : Port) : Prop :=
  p.ph = .receive → (call.kind = .tm → s.rxcnt < s.cfg.rxbufCap) ∧ (call.kind = .tc → p.k < tcAckLen)

/-- What the cursor invariant says of a port. -/
def PortCursor (s : State) (p : Port) : Prop :=
  ∀ i call, fetch s p = .ok i → callOf s i = some call → CallCursor call s p

theorem cursorInv_iff (s : State) :
    s.cursorInv ↔ s.rxcnt ≤ s.cfg.rxbufCap ∧ ∀ (c : Nat) (p : Port), s.ports[c]? = some p → PortCursor s p :=
  and_congr_right fun _ => ⟨fun h c p hp i call hi hcall hph => h c p i call hp hph hi hcall,
    fun h c p i call hp hph hi hcall => h c p hp i call hi hcall hph⟩

theorem portCursor_of_not_receive (hph : p.ph ≠ .receive) : PortCursor s p := fun _ _ _ _ e => absurd e hph

theorem rxbufCap_pos (g : Params) : 0 < g.rxbufCap := by simp [Params.rxbufCap]

/-- A conversation stores its next byte inside the buffer again: a telemetry reply ends at the capacity, an
acknowledgment after its fourth byte. -/
theorem converse_cursor {call : Call} (hp : s.ports[s.actor]? = some p) (hcap : s.rxcnt ≤ s.cfg.rxbufCap)
    (hs : CallCursor call s p) (h : converse call s p = .next t) :
    t.rxcnt ≤ t.cfg.rxbufCap ∧ ∃ p', t.ports = s.ports.set s.actor p' ∧ p'.desc = p.desc ∧
      p'.descLen = p.descLen ∧ CallCursor call t p' := by
  rcases converse_next h with rfl | ⟨_, _, rfl⟩ | ⟨_, _, _, rfl⟩ | ⟨_, rfl⟩ | ⟨hph, _, rfl⟩ | ⟨_, _, _, rfl⟩ |
    ⟨_, _, _, _, rfl⟩ | ⟨hph, hk, b, q, _, rfl⟩ | ⟨hph, hk, b, q, _, rfl⟩ | ⟨_, _, _, _, rfl⟩ | ⟨_, rfl⟩
  · exact ⟨hcap, p, (set_self hp).symm, rfl, rfl, hs⟩
  · exact ⟨hcap, _, rfl, rfl, rfl, by simp [CallCursor]⟩
  · exact ⟨hcap, _, rfl, rfl, rfl, by simp [CallCursor]⟩
  · unfold converseEncode
    split <;> exact ⟨hcap, _, rfl, rfl, rfl, by simp [CallCursor]⟩
  · exact ⟨hcap, _, rfl, rfl, rfl, by simp [CallCursor, hph]⟩
  · unfold afterTxDone
    split
    case h_1 => exact ⟨hcap, _, rfl, rfl, rfl, by simp [CallCursor]⟩
    case h_2 hk => exact ⟨hcap, _, rfl, rfl, rfl, by simp [CallCursor, hk]⟩
    case h_3 hk => exact ⟨Nat.zero_le _, _, rfl, rfl, rfl, by simp [CallCursor, hk, rxbufCap_pos]⟩
  · exact ⟨hcap, _, rfl, rfl, rfl, by simp [CallCursor]⟩
  · unfold ackByte
    dsimp only
    split
    case isTrue hmore => exact ⟨hcap, _, rfl, rfl, rfl, fun _ => ⟨by simp [hk], fun _ => hmore⟩⟩
    case isFalse => exact ⟨hcap, _, rfl, rfl, rfl, by simp [CallCursor]⟩
  · have hroom : s.rxcnt < s.cfg.rxbufCap := (hs hph).1 hk
    unfold replyByte
    dsimp only
    split_ifs with hend hfull
    · exact ⟨hroom, _, rfl, rfl, rfl, by simp [CallCursor]⟩
    · exact ⟨hroom, _, rfl, rfl, rfl, by simp [CallCursor]⟩
    · exact ⟨hroom, _, rfl, rfl, rfl, fun _ => ⟨fun _ => lt_of_le_of_ne hroom hfull, by simp [hk]⟩⟩
  · exact ⟨hcap, _, rfl, rfl, rfl, by simp [CallCursor]⟩
  · unfold converseRelease
    split <;> exact ⟨hcap, _, rfl, rfl, rfl, by simp [CallCursor]⟩

/-- The call of a download rests on its registers, that of the other operations on nothing. -/
theorem callOf_congr {i : Instr} (hcfg : t.cfg = s.cfg)
    (hdl : (∃ type counter size blen, i = .dl type counter size blen) → SameSession s t) : callOf t i = callOf s i := by
  cases i with
  | dl type counter size blen =>
    have hsame := hdl ⟨_, _, _, _, rfl⟩
    simp only [callOf, dlCall, hsame.fdeState, hsame.dlType, hsame.dlCounter, hsame.dlOffset, hsame.dlBlockLen,
      hsame.dlPdl, hcfg]
  | _ => rfl

/-- A download reads no reply outside its conversations. -/
theorem dlRun_not_receive {type counter : Byte} {size : Word} {blen : Half} (hp : s.ports[s.actor]? = some p)
    (hph : p.ph = .run) (h : dlRun type counter size blen s p = .next t) :
    ∃ p', t.ports = s.ports.set s.actor p' ∧ p'.ph ≠ .receive := by
  by_cases hpos : p.pos = .start ∨ p.pos = .session
  · rcases dlRun_beforeSession hpos h with rfl | rfl | ⟨_, rfl⟩ | ⟨_, rfl⟩
    · exact ⟨p, (set_self hp).symm, by simp [hph]⟩
    all_goals exact ⟨_, rfl, by simp⟩
  · obtain ⟨hstart, hsession⟩ := not_or.mp hpos
    cases dlStep_of_dlRun hstart hsession h with
    | stay => exact ⟨p, (set_self hp).symm, by simp [hph]⟩
    | packetByte => exact ⟨_, rfl, by simp [hph]⟩
    | _ => exact ⟨_, rfl, by simp⟩

/-- The acting port keeps its cursor inside the buffer. -/
theorem portStep_cursor (hp : s.ports[s.actor]? = some p) (hcap : s.rxcnt ≤ s.cfg.rxbufCap) (hs : PortCursor s p)
    (h : PortStep s p t) :
    t.rxcnt ≤ t.cfg.rxbufCap ∧ ∃ p', t.ports = s.ports.set s.actor p' ∧ PortCursor t p' := by
  cases h with
  | stay => exact ⟨hcap, p, (set_self hp).symm, hs⟩
  | answer => exact ⟨hcap, _, rfl, portCursor_of_not_receive (by simp)⟩
  | begin => exact ⟨hcap, _, rfl, portCursor_of_not_receive (by simp)⟩
  | respond => exact ⟨hcap, _, rfl, portCursor_of_not_receive (by simp)⟩
  | converse _ hi hcall h =>
    obtain ⟨hcap', p', hports, hdesc, hlen, hcursor⟩ := converse_cursor hp hcap (hs _ _ hi hcall) h
    have hcfg : t.cfg = s.cfg := by
      obtain ⟨_, _, _, _, _, _, _, _, _, _, rfl, _⟩ := converse_frame hp h
      rfl
    refine ⟨hcap', p', hports, fun j call' hj hcall' => ?_⟩
    rw [fetch_congr hcfg hdesc hlen, hi] at hj
    obtain rfl := Except.ok.inj hj
    rw [callOf_congr hcfg fun _ => (converse_session hp h).1, hcall] at hcall'
    exact Option.some.inj hcall' ▸ hcursor
  | download hph _ h =>
    obtain ⟨_, _, hframe, _⟩ := dlRun_frame hp h
    obtain ⟨p', hports, hph'⟩ := dlRun_not_receive hp hph h
    refine ⟨?_, p', hports, portCursor_of_not_receive hph'⟩
    rw [hframe.rxcnt, hframe.cfg]
    exact hcap

/-- Another port keeps its cursor: when it receives it owns the link, so that the acting port touches no staging buffer;
when it is a download it owns the session, so that its call stays what it was. -/
theorem portCursor_of_other {d : Nat} {q : Port} (hlock : s.lockInv) (hp : s.ports[s.actor]? = some p)
    (h : PortStep s p t) (hd : d ≠ s.actor) (hq : s.ports[d]? = some q) (hs : PortCursor s q) : PortCursor t q := by
  have hcfg := (portStep_frame hp h).1.cfg
  obtain ⟨hold, _⟩ := (lockInv_iff s).mp hlock
  have hmine := hold _ _ hp
  have hother := hold _ _ hq
  intro i call hi hcall hrecv
  rw [fetch_congr hcfg rfl rfl] at hi
  have hlink := hother.owns (by rw [hrecv]; rfl)
  have hstaging : SameStaging s t := by
    rcases portStep_staging hp h with hsame | ⟨howns, _⟩
    · exact hsame
    · exact absurd (Option.some.inj (hlink.symm.trans (hmine.owns howns))) hd
  have hcall' : callOf s i = some call := by
    rw [← hcall]
    refine (callOf_congr hcfg ?_).symm
    rintro ⟨type, counter, size, blen, rfl⟩
    have hin := (inSession_iff_runsDl (by simp [hrecv]) (by simp [hrecv]) (by simp [hrecv])).mpr ⟨_, _, _, _, hi⟩
    refine portStep_session hp h (Bool.eq_false_iff.mpr fun hin' => hd ?_)
    exact Option.some.inj ((hother.session.mp hin).symm.trans (hmine.session.mp hin'))
  rw [hstaging.rxcnt, hcfg]
  exact hs i call hi hcall' hrecv

theorem portStep_cursorInv (hlock : s.lockInv) (hp : s.ports[s.actor]? = some p) (h : PortStep s p t)
    (hs : s.cursorInv) : t.cursorInv := by
  obtain ⟨hcap, hall⟩ := (cursorInv_iff s).mp hs
  obtain ⟨hcap', p', hports, hmine⟩ := portStep_cursor hp hcap (hall _ _ hp) h
  exact (cursorInv_iff t).mpr ⟨hcap',
    forall_ports_set hports hmine fun d q hd hq => portCursor_of_other hlock hp h hd hq (hall d q hq)⟩

/-! ## The run invariant -/

/-- A step of a port keeps the run invariant. -/
theorem portStep_runInv (hp : s.ports[s.actor]? = some p) (hidle : p.ph ≠ .idle) (hdone : p.ph ≠ .done)
    (h : PortStep s p t) (hs : s.runInv) : t.runInv := by
  obtain ⟨hcsr, hdecoded, hlock, hbudget, hwidth, hcursor⟩ := hs
  have hlock' := lockInv_of_portStep hlock hp h
  obtain ⟨hbudget', hwidth'⟩ := portStep_sessionInv hp hidle hdone hcsr hdecoded hlock hlock' hbudget hwidth h
  exact ⟨portStep_csrLegal hp h hcsr, portStep_decodedInv hp hidle hdone h hdecoded, hlock', hbudget', hwidth',
    portStep_cursorInv hlock hp h hcursor⟩

end

end Sys2Proof.Machine
end

section
/-! PROOFS of the statements of 10_state.md, part 9: the run invariant holds after reset and every step of every agent
keeps it. -/

namespace Sys2Proof.Machine

open Sys2Proof Sys2Proof.Config

/-! ## Issue and collect -/

/-- The host writes the registers of a port that owns no lock (R29). -/
theorem runInv_of_host {s : State} {c : Nat} {p p' : Port} (collected : List (Nat × Response)) (hs : s.runInv)
    (hp : s.ports[c]? = some p) (hph : p.ph = .idle ∨ p.ph = .done)
    (hlock : ({ s with ports := s.ports.set c p', collected := collected } : State).lockInv)
    (hdecoded : p'.ph = .idle ∨ (p'.ph = .run ∧ p'.pos = .start)) :
    ({ s with ports := s.ports.set c p', collected := collected } : State).runInv := by
  obtain ⟨hcsr, hdec, hlock₀, hbudget, hwidth, hcursor⟩ := hs
  have hout : inSession s p = false := hph.elim not_inSession_of_idle not_inSession_of_done
  have howns : p.ph.ownsLink = false := by rcases hph with e | e <;> rw [e] <;> rfl
  obtain ⟨hold, _⟩ := (lockInv_iff s).mp hlock₀
  obtain ⟨_, hfree⟩ := (hold c p hp).owns_nothing howns hout
  obtain ⟨hcap, hall⟩ := (cursorInv_iff s).mp hcursor
  refine ⟨hcsr, decodedInv_of_step hdec rfl rfl fun i _ hidle _ hpast => ?_, hlock,
    budgetInv_of_step hlock₀ hlock hp hbudget rfl rfl (fun _ => by constructor <;> rfl) fun e => absurd e hfree, hwidth,
    (cursorInv_iff _).mpr ⟨hcap, forall_ports_set rfl (portCursor_of_not_receive ?_) fun d q _ hq => hall d q hq⟩⟩
  · exact (hdecoded.elim hidle hpast).elim
  · rcases hdecoded with e | ⟨e, _⟩ <;> simp [e]

/-! ## Reset (R55) -/

/-- The reset values of a legal configuration are legal values (R37). -/
theorem resetWith_csrLegal {g : Params} (h : g.legal = true) : (State.resetWith g).csrLegal := by
  simp only [Params.legal, Params.meetsR8, Params.resetsLegal, List.all_cons, List.all_nil, id, Bool.and_true,
    Bool.and_eq_true, decide_eq_true_eq] at h
  obtain ⟨⟨_, _, _, _, _, hdata, _⟩, _, hretry, hfill, _⟩ := h
  have hdata' : 1 ≤ (BitVec.ofNat 32 pktDataLenReset).toNat := by decide
  exact ⟨hretry, ⟨hdata', hdata⟩, hfill⟩

/-- The widths of the registers that R55 leaves unspecified rest on their zeros (log 7). -/
theorem resetWith_widthInv (g : Params) : (State.resetWith g).widthInv := by
  simp [State.widthInv, State.resetWith]

/-- The run invariant asks of a quiescent block only its control registers, widths and receive count. -/
theorem runInv_of_quiescent {s : State} (h : s.quiescent) (hcsr : s.csrLegal) (hwidth : s.widthInv)
    (hcap : s.rxcnt ≤ s.cfg.rxbufCap) : s.runInv := by
  have hlock := lockInv_of_quiescent h
  obtain ⟨hended, _, hsession, _, _⟩ := h
  have hidle {c : Nat} {p : Port} (hp : s.ports[c]? = some p) : p.ph = .idle := hended p (List.mem_of_getElem? hp)
  refine ⟨hcsr, fun c p i hp _ hbusy => absurd (hidle hp) hbusy, hlock, fun c p _ hc => ?_, hwidth,
    (cursorInv_iff s).mpr ⟨hcap, fun c p hp => portCursor_of_not_receive (by simp [hidle hp])⟩⟩
  simp [hsession] at hc

theorem resetWith_runInv {g : Params} (h : g.legal = true) : (State.resetWith g).runInv :=
  runInv_of_quiescent (resetWith_clean g).1 (resetWith_csrLegal h) (resetWith_widthInv g) (Nat.zero_le _)

/-- Settles O55: reset is clean by its table; a quiescent block has the invariants. -/
theorem stateAfterResetIsCleanAndInvariant : Obligations.StateAfterResetIsCleanAndInvariant :=
  ⟨rfl, by decide, fun g => ⟨resetWith_clean g, fun h =>
    ⟨memory_wf_resetWith g, lockInv_of_quiescent (resetWith_clean g).1, resetWith_runInv h⟩⟩⟩

/-! ## Every step -/

/-- Every move of every agent keeps the run invariant. -/
theorem perform_runInv {m : Move} {s t : State} (hlegal : s.cfg.legal = true) (hs : s.runInv)
    (h : perform m s = .next t) : t.runInv := by
  have ⟨_, _, hlock₀, _⟩ := hs
  have hlock := perform_lockInv hlock₀ h
  cases m with
  | issue c d =>
    obtain ⟨p, hp, hidle, rfl⟩ := issue_next h
    exact runInv_of_host s.collected hs hp (.inl hidle) hlock (.inr ⟨rfl, rfl⟩)
  | collect c =>
    obtain ⟨p, hp, hdone, rfl⟩ := collect_next h
    exact runInv_of_host _ hs hp (.inr hdone) hlock (.inl rfl)
  | port c =>
    rcases portStep_of_runPort h with rfl | ⟨p, hp, hidle, hdone, h⟩
    · exact hs
    · exact portStep_runInv (s := { s with actor := c }) hp hidle hdone h hs
  | rx b =>
    obtain rfl := Host.Outcome.next.inj h
    rcases rxPush_cases b s with ⟨_, e⟩ | ⟨_, e⟩ <;> rw [e] <;> exact hs
  | tx =>
    obtain rfl := Host.Outcome.next.inj h
    exact hs
  | tick =>
    obtain rfl := Host.Outcome.next.inj h
    exact hs
  | sink ok =>
    obtain rfl := Host.Outcome.next.inj h
    exact hs
  | reset =>
    obtain rfl := Host.Outcome.next.inj h
    exact runInv_of_quiescent (resetBlock_quiescent s) (resetWith_csrLegal hlegal) (resetWith_widthInv s.cfg)
      (Nat.zero_le _)

/-- Settles O54: the six parts are kept by a port's step (`portStep_runInv`); the host's moves and RESET meet them by
the port's phase, and the other moves touch nothing they speak of. -/
theorem everyStepKeepsTheRunInvariant : Obligations.EveryStepKeepsTheRunInvariant := by
  intro s t hs h
  exact step_keeps (I := State.runInv) (fun _ _ _ hs => hs) (fun _ _ _ hlegal hs => perform_runInv hlegal hs) hs h

end Sys2Proof.Machine
end

section
/-! PROOFS of the statements of 20_memory.md, part 1: what one step of a port does to the spaces of bytes. -/

namespace Sys2Proof.Machine

open Sys2Proof Sys2Proof.Config

/-! ## The files of the sink (R52, R69) -/

/-- What one step of port `p` can make of the files: leave them, open the file its download names, or add to a file's
end. -/
inductive FileStep (s : State) (p : Port) : List (FileId × List Byte) → Prop
  | same : FileStep s p s.sink.files
  | opens (f : FileId) (size : Word) (blen : Half) (content : List Byte) (hpos : p.pos = .opening)
      (hi : fetch s p = .ok (.dl f.type f.counter size blen)) : FileStep s p (filesPut f content s.sink.files)
  | appends (f : FileId) (more : List Byte) :
      FileStep s p (filesPut f ((fileContent s f).getD [] ++ more) s.sink.files)

theorem FileStep.sorted {s : State} {p : Port} {fs : List (FileId × List Byte)} (h : FileStep s p fs)
    (hs : FilesSorted s.sink.files) : FilesSorted fs := by
  cases h with
  | same => exact hs
  | opens => exact filesPut_sorted hs
  | appends => exact filesPut_sorted hs

/-- A file that exists keeps its bytes and may grow at its end, unless the step opens it. -/
theorem FileStep.grows {s : State} {p : Port} {fs : List (FileId × List Byte)} {f : FileId} {bs : List Byte}
    (h : FileStep s p fs) (hf : fileContent s f = some bs) :
    (∃ more, filesGet f fs = some (bs ++ more)) ∨
      ∃ size blen, p.pos = .opening ∧ fetch s p = .ok (.dl f.type f.counter size blen) := by
  have kept : filesGet f s.sink.files = some (bs ++ []) := by rw [List.append_nil]; exact hf
  cases h with
  | same => exact .inl ⟨[], kept⟩
  | opens g size blen content hpos hi =>
    by_cases hg : f = g
    · subst hg
      exact .inr ⟨size, blen, hpos, hi⟩
    · exact .inl ⟨[], by rw [filesGet_filesPut_other _ _ hg, kept]⟩
  | appends g more =>
    by_cases hg : f = g
    · subst hg
      exact .inl ⟨more, by rw [filesGet_filesPut_self, hf, Option.getD_some]⟩
    · exact .inl ⟨[], by rw [filesGet_filesPut_other _ _ hg, kept]⟩

/-- `SinkOpen` writes no file but the one it opens. -/
theorem sinkOpen_fileStep {s : State} {p : Port} {f : FileId} {size : Word} {blen : Half} (hpos : p.pos = .opening)
    (hi : fetch s p = .ok (.dl f.type f.counter size blen)) :
    ∃ k a d, (sinkOpen f s).2 = { s with sink := k, sinkAnswers := a, draws := d } ∧ FileStep s p k.files := by
  obtain ⟨a, d, hdraw⟩ := sinkDraw_frame s
  unfold sinkOpen
  split <;> rename_i s' hs' <;> obtain rfl := (congrArg Prod.snd hs').symm.trans hdraw
  · unfold sinkOpened
    split
    · exact ⟨_, a, d, rfl, .opens f size blen _ hpos hi⟩
    · exact ⟨_, a, d + 1, rfl, .opens f size blen _ hpos hi⟩
  · exact ⟨s.sink, a, d, rfl, .same⟩

/-- `SinkWrite` adds to the end of the current file. -/
theorem sinkWrite_fileStep (bs : List Byte) (s : State) (p : Port) :
    ∃ k a d, (sinkWrite bs s).2 = { s with sink := k, sinkAnswers := a, draws := d } ∧ FileStep s p k.files := by
  obtain ⟨a, d, hdraw⟩ := sinkDraw_frame s
  unfold sinkWrite
  split <;> rename_i s' hs' <;> obtain rfl := (congrArg Prod.snd hs').symm.trans hdraw
  · unfold sinkAppend
    split
    · exact ⟨s.sink, a, d, rfl, .same⟩
    · exact ⟨_, a, d, rfl, .appends _ bs⟩
  · exact ⟨s.sink, a, d, rfl, .same⟩

theorem sinkWriteSome_fileStep (bs : List Byte) (s : State) (p : Port) :
    ∃ k a d, (sinkWriteSome bs s).2 = { s with sink := k, sinkAnswers := a, draws := d } ∧ FileStep s p k.files := by
  cases bs with
  | nil => exact ⟨s.sink, s.sinkAnswers, s.draws, rfl, .same⟩
  | cons b rest => exact sinkWrite_fileStep (b :: rest) s p

/-! ## The spaces, by what a step of port `p` does to each (R60) -/

/-- The spaces that data pass through on their way in: one byte or none is taken from the queue's head (R64), the
packet buffer keeps its size (R34), and the files are written by a sink call only. -/
structure InboundStep (s : State) (p : Port) (t : State) : Prop where
  rxq : t.rxq = s.rxq ∨ ∃ b, s.rxq = b :: t.rxq
  pktbuf : t.pktbuf.length = s.pktbuf.length
  files : FileStep s p t.sink.files

/-- Beside them the staging buffers, which keep their sizes (R25 to R27). The descriptor latches and the hole map are
told by `portStep_frame`. -/
structure SpaceStep (s : State) (p : Port) (t : State) : Prop extends InboundStep s p t where
  txbuf : t.txbuf.length = s.txbuf.length
  txlen : t.txlen = s.txlen ∨ t.txlen ≤ s.cfg.txbufCap
  rxbuf : t.rxbuf.length = s.rxbuf.length
  ack : t.ack.length = s.ack.length

/-- A step of a conversation stages a frame that fits, or stores the byte it takes from the queue. -/
theorem converse_spaces {call : Call} {s t : State} {p : Port} (h : converse call s p = .next t) :
    SpaceStep s p t := by
  rcases converse_next h with rfl | ⟨_, _, rfl⟩ | ⟨_, _, _, rfl⟩ | ⟨_, rfl⟩ | ⟨_, _, rfl⟩ | ⟨_, _, _, rfl⟩ |
    ⟨_, _, _, _, rfl⟩ | ⟨_, _, b, q, hq, rfl⟩ | ⟨_, _, b, q, hq, rfl⟩ | ⟨_, _, _, _, rfl⟩ | ⟨_, rfl⟩
  · exact ⟨⟨.inl rfl, rfl, .same⟩, rfl, .inl rfl, rfl, rfl⟩
  · exact ⟨⟨.inl rfl, rfl, .same⟩, rfl, .inl rfl, rfl, rfl⟩
  · exact ⟨⟨.inl rfl, rfl, .same⟩, rfl, .inl rfl, rfl, rfl⟩
  · unfold converseEncode
    split
    case isTrue => exact ⟨⟨.inl rfl, rfl, .same⟩, rfl, .inl rfl, rfl, rfl⟩
    case isFalse hfits =>
      exact ⟨⟨.inl rfl, rfl, .same⟩, writePrefix_length _ _, .inr (frame_fits (Nat.not_lt.mp hfits)), rfl, rfl⟩
  · exact ⟨⟨.inl rfl, rfl, .same⟩, rfl, .inl rfl, rfl, rfl⟩
  · unfold afterTxDone
    split <;> exact ⟨⟨.inl rfl, rfl, .same⟩, rfl, .inl rfl, rfl, rfl⟩
  · exact ⟨⟨.inl rfl, rfl, .same⟩, rfl, .inl rfl, rfl, rfl⟩
  · unfold ackByte
    dsimp only
    split <;> exact ⟨⟨.inr ⟨b, hq⟩, rfl, .same⟩, rfl, .inl rfl, rfl, List.length_set⟩
  · unfold replyByte
    dsimp only
    split_ifs <;> exact ⟨⟨.inr ⟨b, hq⟩, rfl, .same⟩, rfl, .inl rfl, List.length_set, rfl⟩
  · exact ⟨⟨.inl rfl, rfl, .same⟩, rfl, .inl rfl, rfl, rfl⟩
  · unfold converseRelease
    split <;> exact ⟨⟨.inl rfl, rfl, .same⟩, rfl, .inl rfl, rfl, rfl⟩

/-! ## The steps of a download (42_download.md R201) -/

section

variable {type counter : Byte} {size : Word} {blen : Half} {s t : State} {p : Port}

/-- R203: the open writes the file that the operation names. -/
theorem dlOpen_inbound (hi : fetch s p = .ok (.dl type counter size blen)) (hpos : p.pos = .opening) :
    InboundStep s p (dlOpen type counter s p) := by
  obtain ⟨k, a, d, hsink, hstep⟩ := sinkOpen_fileStep (f := ⟨type, counter⟩) hpos hi
  unfold dlOpen
  split <;> rename_i s' hopen <;> obtain rfl := (congrArg Prod.snd hopen).symm.trans hsink <;>
    exact ⟨.inl rfl, rfl, hstep⟩

/-- R209, R210: the fill or the packet's data go to the end of the current file. -/
theorem dlDeliver_inbound : InboundStep s p (dlDeliver s p) := by
  unfold dlDeliver
  dsimp only
  split
  · obtain ⟨k, a, d, hsink, hstep⟩ := sinkWriteSome_fileStep (List.replicate (blockShare s) s.dlFill) s p
    split <;> rename_i s' hwrite <;> obtain rfl := (congrArg Prod.snd hwrite).symm.trans hsink <;>
      exact ⟨.inl rfl, rfl, hstep⟩
  · obtain ⟨k, a, d, hsink, hstep⟩ := sinkWriteSome_fileStep (packetData s.pktbuf (blockShare s)) s p
    split <;> rename_i s' hwrite <;> obtain rfl := (congrArg Prod.snd hwrite).symm.trans hsink <;>
      exact ⟨.inl rfl, rfl, hstep⟩

/-- R214: the close writes no file. -/
theorem dlClose_inbound : InboundStep s p (dlClose s p) := by
  obtain ⟨a, d, hsink⟩ := sinkClose_frame s
  unfold dlClose
  split <;> rename_i s' hclose <;> obtain rfl := (congrArg Prod.snd hclose).symm.trans hsink <;>
    exact ⟨.inl rfl, rfl, .same⟩

/-- R215, R223: an abort keeps the bytes of the file. -/
theorem dlAborted_inbound : InboundStep s p (dlAborted s p) := by
  obtain ⟨link, hfree, _⟩ := freeLink_frame s
  unfold dlAborted
  dsimp only
  rw [hfree]
  split
  · obtain ⟨a, d, hsink⟩ := sinkClose_frame { s with linkOwner := link }
    rw [hsink]
    exact ⟨.inl rfl, rfl, .same⟩
  · exact ⟨.inl rfl, rfl, .same⟩

/-- A step of a download outside its conversations takes bytes from the queue in `packet` only and calls the sink in
`opening`, `deliver`, `close` and `abort` only. -/
theorem dlRun_inbound (hi : fetch s p = .ok (.dl type counter size blen))
    (h : dlRun type counter size blen s p = .next t) : InboundStep s p t := by
  rcases dlRun_next h with rfl | ⟨_, _, rfl⟩ | ⟨_, _, rfl⟩ | ⟨_, _, rfl⟩ | ⟨_, _, _, rfl⟩ | ⟨_, rfl⟩ | ⟨hpos, rfl⟩ |
    ⟨_, rfl⟩ | ⟨_, rfl⟩ | ⟨_, rfl⟩ | ⟨_, _, rfl⟩ | ⟨_, _, rfl⟩ | ⟨_, _, rfl⟩ | ⟨_, rfl⟩ | ⟨_, rfl⟩ |
    ⟨_, b, q, hq, rfl⟩ | ⟨_, _, _, rfl⟩ | ⟨_, rfl⟩ | ⟨_, rfl⟩ | ⟨_, rfl⟩ | ⟨_, rfl⟩ | ⟨_, rfl⟩
  · exact ⟨.inl rfl, rfl, .same⟩
  · exact ⟨.inl rfl, rfl, .same⟩
  · exact ⟨.inl rfl, rfl, .same⟩
  · exact ⟨.inl rfl, rfl, .same⟩
  · exact ⟨.inl rfl, rfl, .same⟩
  · unfold dlCreate
    dsimp only
    split <;> exact ⟨.inl rfl, rfl, .same⟩
  · exact dlOpen_inbound hi hpos
  · exact ⟨.inl rfl, rfl, .same⟩
  · unfold dlPoll dlAbort
    split_ifs <;> exact ⟨.inl rfl, rfl, .same⟩
  · exact ⟨.inl rfl, rfl, .same⟩
  · unfold dlRequested dlAbort
    split <;> exact ⟨.inl rfl, rfl, .same⟩
  · unfold dlPolled dlAbort
    split_ifs
    · exact ⟨.inl rfl, rfl, .same⟩
    · split <;> exact ⟨.inl rfl, rfl, .same⟩
    · exact ⟨.inl rfl, rfl, .same⟩
  · unfold dlBurstStarted dlAbort
    split <;> exact ⟨.inl rfl, rfl, .same⟩
  · unfold dlLoop
    split <;> exact ⟨.inl rfl, rfl, .same⟩
  · unfold dlAttempt dlAbort
    split <;> exact ⟨.inl rfl, rfl, .same⟩
  · unfold packetByte
    dsimp only
    split <;> exact ⟨.inr ⟨b, hq⟩, List.length_set, .same⟩
  · exact ⟨.inl rfl, rfl, .same⟩
  · unfold dlCheck dlAbort
    dsimp only
    split <;> exact ⟨.inl rfl, rfl, .same⟩
  · exact dlDeliver_inbound
  · obtain ⟨link, hfree, _⟩ := freeLink_frame s
    unfold dlBlockEnd
    rw [hfree]
    exact ⟨.inl rfl, rfl, .same⟩
  · exact dlClose_inbound
  · exact dlAborted_inbound

/-- A port's step, space by space. -/
theorem portStep_spaces (hp : s.ports[s.actor]? = some p) (h : PortStep s p t) : SpaceStep s p t := by
  cases h with
  | converse _ _ _ h => exact converse_spaces h
  | download _ hi h =>
    obtain ⟨_, _, hframe, _⟩ := dlRun_frame hp h
    exact ⟨dlRun_inbound hi h, congrArg _ hframe.txbuf, .inl hframe.txlen, congrArg _ hframe.rxbuf,
      congrArg _ hframe.ack⟩
  | stay | answer | begin | respond => exact ⟨⟨.inl rfl, rfl, .same⟩, rfl, .inl rfl, rfl, rfl⟩

end

end Sys2Proof.Machine
end

section
/-! PROOFS of the statements of 20_memory.md, part 2: what every step of every agent does to the spaces of bytes. -/

namespace Sys2Proof.Machine

open Sys2Proof Sys2Proof.Config

/-- A step performs the next move in a state that differs only in the schedule and the draws. -/
theorem step_performs {s t : State} (h : step s = .next t) :
    ∃ q d, perform s.move { s with schedule := q, draws := d } = .next t := by
  obtain ⟨q, d, hnext⟩ := nextMove_frame s
  obtain ⟨_, h⟩ := step_next h
  rw [hnext] at h
  exact ⟨q, d, h⟩

/-! ## The canonical form (R60) -/

/-- A port's step keeps the form: each space by `SpaceStep`, and the step writes no descriptor latch (R70). -/
theorem portStep_memory_wf {s t : State} {p : Port} (hp : s.ports[s.actor]? = some p) (h : PortStep s p t)
    (hs : Memory.wf s = true) : Memory.wf t = true := by
  obtain ⟨⟨hcfg, _, hholes, _⟩, p', hports, hdesc, _⟩ := portStep_frame hp h
  obtain ⟨⟨hrxq, hpktbuf, hfiles⟩, htxbuf, htxlen, hrxbuf, hack⟩ := portStep_spaces hp h
  obtain ⟨hqueue, hstage, hlen, hreply, hackLen, hpacket, hmap, hcount, hlatches, hsorted⟩ := (memory_wf_iff s).mp hs
  have hqueue' : t.rxq.length ≤ s.rxq.length := by
    rcases hrxq with e | ⟨b, e⟩ <;> simp [e]
  have hlatches' : ∀ q ∈ t.ports, q.desc.length ≤ s.cfg.descCap := by
    intro q hq
    rw [hports] at hq
    rcases List.mem_or_eq_of_mem_set hq with hq | rfl
    · exact hlatches q hq
    · rw [hdesc]
      exact memory_wf_desc hs hp
  rw [memory_wf_iff, hcfg, htxbuf, hrxbuf, hack, hpktbuf, hholes, hports, List.length_set, ← hports]
  refine ⟨hqueue'.trans hqueue, hstage, ?_, hreply, hackLen, hpacket, hmap, hcount, hlatches', hfiles.sorted hsorted⟩
  exact htxlen.elim (fun e => e ▸ hlen) id

/-- Every move of every agent keeps the form. -/
theorem perform_memory_wf {m : Move} {s t : State} (hs : Memory.wf s = true) (h : perform m s = .next t) :
    Memory.wf t = true := by
  cases m with
  | issue c d => exact memory_wf_issue hs h
  | collect c => exact memory_wf_collect hs h
  | port c =>
    rcases portStep_of_runPort h with rfl | ⟨p, hp, _, _, h⟩
    · exact hs
    · exact portStep_memory_wf (s := { s with actor := c }) hp h hs
  | rx b =>
    obtain rfl := Host.Outcome.next.inj h
    exact memory_wf_rxPush b hs
  | tx | tick | sink ok =>
    obtain rfl := Host.Outcome.next.inj h
    exact hs
  | reset =>
    obtain rfl := Host.Outcome.next.inj h
    exact memory_wf_resetBlock hs

/-- Settles O52: a port's step keeps every space's form (`portStep_memory_wf`), and each other agent's move is one
operation on a space, which keeps it by its own law. -/
theorem everyStepKeepsTheMemoryForm : Obligations.EveryStepKeepsTheMemoryForm := by
  intro s t hs h
  exact step_keeps (I := fun s => Memory.wf s = true) (fun _ _ _ hs => hs) (fun _ _ _ _ hs => perform_memory_wf hs) hs h

/-! ## The sink (R69) -/

/-- Only a port's move writes files: RESET leaves the sink alone (R55), and no other agent changes a register that the
session lock protects. -/
theorem perform_files {m : Move} {s t : State} (h : perform m s = .next t) :
    t.sink.files = s.sink.files ∨ ∃ c p, m = .port c ∧ s.ports[c]? = some p ∧
      FileStep { s with actor := c } p t.sink.files := by
  by_cases hport : ∃ c, m = .port c
  · obtain ⟨c, rfl⟩ := hport
    rcases portStep_of_runPort h with rfl | ⟨p, hp, _, _, h⟩
    · exact .inl rfl
    · exact .inr ⟨c, p, rfl, hp, (portStep_spaces hp h).files⟩
  · by_cases hreset : m = .reset
    · subst hreset
      obtain rfl := Host.Outcome.next.inj h
      exact .inl rfl
    · exact .inl (congrArg Sink.files (perform_sameRegisters (fun c hc => hport ⟨c, hc⟩) hreset h).2.sink)

/-- Settles O58: a step that writes files is a port's `FileStep`, which adds to a file's end but for the open. -/
theorem sinkIsAppendOnly : Obligations.SinkIsAppendOnly := by
  intro s t f bs h hf
  obtain ⟨q, d, h⟩ := step_performs h
  rcases perform_files h with hsame | ⟨c, p, hmove, hp, hstep⟩
  · exact .inl ⟨[], by rw [fileContent, hsame, List.append_nil]; exact hf⟩
  · exact (hstep.grows hf).imp_right fun ⟨size, blen, hpos, hi⟩ => ⟨c, p, size, blen, hmove, hp, hpos, hi⟩

/-! ## The receive queue (R64) -/

/-- Every move of every agent, by what it does to the queue. -/
theorem perform_rxq {m : Move} {s t : State} (h : perform m s = .next t) :
    t.rxq = s.rxq ∨ (∃ c b, m = .port c ∧ s.rxq = b :: t.rxq) ∨ (∃ b, m = .rx b ∧ t.rxq = s.rxq ++ [b]) ∨
      (m = .reset ∧ t.rxq = []) := by
  cases m with
  | issue c d =>
    obtain ⟨_, _, _, rfl⟩ := issue_next h
    exact .inl rfl
  | collect c =>
    obtain ⟨_, _, _, rfl⟩ := collect_next h
    exact .inl rfl
  | port c =>
    rcases portStep_of_runPort h with rfl | ⟨p, hp, _, _, h⟩
    · exact .inl rfl
    · exact (portStep_spaces hp h).rxq.imp_right fun ⟨b, hb⟩ => .inl ⟨c, b, rfl, hb⟩
  | rx b =>
    obtain rfl := Host.Outcome.next.inj h
    rcases rxPush_cases b s with ⟨_, e⟩ | ⟨_, e⟩ <;> rw [e]
    · exact .inr (.inr (.inl ⟨b, rfl, rfl⟩))
    · exact .inl rfl
  | tx | tick | sink ok =>
    obtain rfl := Host.Outcome.next.inj h
    exact .inl rfl
  | reset =>
    obtain rfl := Host.Outcome.next.inj h
    exact .inr (.inr (.inr ⟨rfl, rfl⟩))

/-- Settles O59: taking the move leaves the queue alone, then `perform_rxq`. -/
theorem receiveQueueIsFifo : Obligations.ReceiveQueueIsFifo := by
  intro s t h
  obtain ⟨_, _, h⟩ := step_performs h
  have hqueue := perform_rxq h
  exact hqueue

end Sys2Proof.Machine
end

section
/-! PROOFS of the statements of 30_encoding.md, part 1: the encoder and the decoder of descriptors are inverse to each
other, so the descriptors that decode are exactly the encodings of the operations that are encodable and fit. -/

namespace Sys2Proof

open Config

/-! ## Little-endian numbers read from and written to bytes (20_memory.md R63) -/

@[simp] theorem le16_cons_succ (b : Byte) (t : List Byte) (k : Nat) : le16 (b :: t) (k + 1) = le16 t k := rfl

@[simp] theorem le32_cons_succ (b : Byte) (t : List Byte) (k : Nat) : le32 (b :: t) (k + 1) = le32 t k := rfl

@[simp] theorem length_leBytes (count v : Nat) : (leBytes count v).length = count := by
  induction count generalizing v with
  | zero => rfl
  | succ count ih => simp [leBytes, ih]

theorem le16_lt (s : List Byte) (k : Nat) : le16 s k < 65536 := by
  have h0 := (s.getD k 0).isLt
  have h1 := (s.getD (k + 1) 0).isLt
  unfold le16
  omega

theorem le32_lt (s : List Byte) (k : Nat) : le32 s k < 4294967296 := by
  have h0 := (s.getD k 0).isLt
  have h1 := (s.getD (k + 1) 0).isLt
  have h2 := (s.getD (k + 2) 0).isLt
  have h3 := (s.getD (k + 3) 0).isLt
  unfold le32
  omega

/-- A 16 bit number is read back from its bytes. -/
theorem le16_leBytes {n : Nat} (h : n < 65536) (t : List Byte) : le16 (leBytes 2 n ++ t) 0 = n := by
  simp only [leBytes, List.cons_append, le16, List.getD_cons_zero, List.getD_cons_succ, BitVec.toNat_ofNat]
  omega

/-- A 32 bit number is read back from its bytes. -/
theorem le32_leBytes {n : Nat} (h : n < 4294967296) (t : List Byte) : le32 (leBytes 4 n ++ t) 0 = n := by
  simp only [leBytes, List.cons_append, le32, List.getD_cons_zero, List.getD_cons_succ, BitVec.toNat_ofNat]
  omega

/-- Two bytes are the bytes of the number read from them. -/
theorem leBytes_le16 (a b : Byte) (t : List Byte) : leBytes 2 (le16 (a :: b :: t) 0) = [a, b] := by
  have ha := a.isLt
  have hb := b.isLt
  simp only [leBytes, le16, List.getD_cons_zero, List.getD_cons_succ, List.cons.injEq, and_true,
    BitVec.toNat_eq, BitVec.toNat_ofNat]
  omega

/-- Four bytes are the bytes of the number read from them. -/
theorem leBytes_le32 (a b c d : Byte) (t : List Byte) : leBytes 4 (le32 (a :: b :: c :: d :: t) 0) = [a, b, c, d] := by
  have ha := a.isLt
  have hb := b.isLt
  have hc := c.isLt
  have hd := d.isLt
  simp only [leBytes, le32, List.getD_cons_zero, List.getD_cons_succ, List.cons.injEq, and_true,
    BitVec.toNat_eq, BitVec.toNat_ofNat]
  omega

/-- The operand read from two bytes holds the number they stand for: 16 bits lose nothing. -/
theorem toNat_ofNat_le16 (s : List Byte) (k : Nat) : (BitVec.ofNat 16 (le16 s k)).toNat = le16 s k :=
  BitVec.toNat_ofNat .. ▸ Nat.mod_eq_of_lt (le16_lt s k)

/-- The operand read from four bytes holds the number they stand for: 32 bits lose nothing. -/
theorem toNat_ofNat_le32 (s : List Byte) (k : Nat) : (BitVec.ofNat 32 (le32 s k)).toNat = le32 s k :=
  BitVec.toNat_ofNat .. ▸ Nat.mod_eq_of_lt (le32_lt s k)

/-- A 16 bit operand is read back from its bytes, whatever follows them. -/
theorem ofNat_le16_leBytes (v : Half) (t : List Byte) : BitVec.ofNat 16 (le16 (leBytes 2 v.toNat ++ t) 0) = v := by
  rw [le16_leBytes v.isLt, BitVec.ofNat_toNat, BitVec.setWidth_eq]

/-- A 32 bit operand is read back from its bytes, whatever follows them. -/
theorem ofNat_le32_leBytes (v : Word) (t : List Byte) : BitVec.ofNat 32 (le32 (leBytes 4 v.toNat ++ t) 0) = v := by
  rw [le32_leBytes v.isLt, BitVec.ofNat_toNat, BitVec.setWidth_eq]

/-! ## The two kinds of format (R104 to R111, R115) -/

/-- Format V reads back the payload written behind its length. -/
theorem decodeV_leBytes (mk : List Byte → Instr) (op : Byte) {p : List Byte} (h : p.length < 65536) :
    decodeV mk (op :: (leBytes 2 p.length ++ p)) = .ok (mk p) := by
  have hn : le16 (op :: (leBytes 2 p.length ++ p)) 1 = p.length := le16_leBytes h p
  unfold decodeV
  rw [hn, if_neg (by simp; omega)]
  rfl

/-- A descriptor of format V that decodes is its code, the length of a payload, and that payload. -/
theorem decodeV_eq_ok {mk : List Byte → Instr} {op : Byte} {t : List Byte} {i : Instr}
    (h : decodeV mk (op :: t) = .ok i) :
    ∃ p : List Byte, t = leBytes 2 p.length ++ p ∧ p.length < 65536 ∧ i = mk p := by
  unfold decodeV at h
  split_ifs at h with hlen
  obtain ⟨hshort, hn⟩ := not_or.mp hlen
  obtain ⟨a, b, p, rfl⟩ : ∃ a b p, t = a :: b :: p := by
    match t, hshort with
    | a :: b :: p, _ => exact ⟨a, b, p, rfl⟩
    | [_], hshort => simp at hshort
    | [], hshort => simp at hshort
  have hp : p.length = le16 (a :: b :: p) 0 := by
    rw [le16_cons_succ] at hn
    simp only [List.length_cons] at hn
    omega
  refine ⟨p, ?_, hp ▸ le16_lt _ _, (Except.ok.inj h).symm⟩
  rw [hp, leBytes_le16]
  rfl

theorem decodeFixed_eq_ok {len : Nat} {i j : Instr} {d : List Byte} :
    decodeFixed len i d = .ok j ↔ d.length = len ∧ i = j := by
  unfold decodeFixed
  split_ifs with h <;> simp_all

/-! ## The decoder, code by code (R103) -/

section
variable {cap len : Nat} (hcap : len ≤ cap) (t : List Byte)
include hcap

theorem decode_nil : decode cap len [] = .error .empty := by simp [decode, hcap.not_gt]

theorem decode_stuff : decode cap len (0x01 :: t) = decodeV .stuff (0x01 :: t) := by simp [decode, hcap.not_gt]

theorem decode_destuff : decode cap len (0x02 :: t) = decodeV .destuff (0x02 :: t) := by simp [decode, hcap.not_gt]

theorem decode_tc : decode cap len (0x10 :: t) = decodeV .tc (0x10 :: t) := by simp [decode, hcap.not_gt]

theorem decode_tcnr : decode cap len (0x11 :: t) = decodeV .tcnr (0x11 :: t) := by simp [decode, hcap.not_gt]

theorem decode_tm : decode cap len (0x12 :: t) =
    decodeFixed 4 (.tm (t.getD 0 0) (BitVec.ofNat 16 (le16 t 1))) (0x12 :: t) := by
  simp [decode, hcap.not_gt]

theorem decode_dl : decode cap len (0x20 :: t) =
    decodeFixed 9 (.dl (t.getD 0 0) (t.getD 1 0) (BitVec.ofNat 32 (le32 t 2)) (BitVec.ofNat 16 (le16 t 6)))
      (0x20 :: t) := by
  simp [decode, hcap.not_gt]

theorem decode_csrw : decode cap len (0x30 :: t) =
    decodeFixed 6 (.csrw (t.getD 0 0) (BitVec.ofNat 32 (le32 t 1))) (0x30 :: t) := by
  simp [decode, hcap.not_gt]

theorem decode_csrr : decode cap len (0x31 :: t) = decodeFixed 2 (.csrr (t.getD 0 0)) (0x31 :: t) := by
  simp [decode, hcap.not_gt]

theorem decode_unknown {op : Byte} (h : op ∉ [0x01, 0x02, 0x10, 0x11, 0x12, 0x20, 0x30, 0x31]) :
    decode cap len (op :: t) = .error (.unknownOperation op) := by
  simp only [List.mem_cons, List.not_mem_nil, or_false, not_or] at h
  simp only [decode, if_neg hcap.not_gt, h, if_false]

end

/-- R114 (1): the length presented is tested before any byte is looked at. -/
theorem decode_tooLong {cap len : Nat} (h : cap < len) (d : List Byte) : decode cap len d = .error .tooLong :=
  if_pos h

/-! ## The decoder undoes the encoder -/

theorem encodable_iff {i : Instr} : i.encodable = true ↔ i.payloadLength < 65536 := decide_eq_true_iff

theorem fits_iff {g : Params} {i : Instr} : i.fits g = true ↔ (encode i).length ≤ g.descCap := decide_eq_true_iff

/-- The decoder gives back every encodable operation whose descriptor the latch can hold. -/
theorem decode_encode {cap : Nat} {i : Instr} (hn : i.payloadLength < 65536) (hcap : (encode i).length ≤ cap) :
    decode cap (encode i).length (encode i) = .ok i := by
  cases i with
  | stuff p => exact (decode_stuff hcap _).trans (decodeV_leBytes _ _ hn)
  | destuff q => exact (decode_destuff hcap _).trans (decodeV_leBytes _ _ hn)
  | tc p => exact (decode_tc hcap _).trans (decodeV_leBytes _ _ hn)
  | tcnr p => exact (decode_tcnr hcap _).trans (decodeV_leBytes _ _ hn)
  | tm tlmId req =>
    refine (decode_tm hcap _).trans (decodeFixed_eq_ok.mpr ⟨rfl, ?_⟩)
    have hreq := ofNat_le16_leBytes req []
    exact congrArg (Instr.tm tlmId) hreq
  | dl type counter size blen =>
    refine (decode_dl hcap _).trans (decodeFixed_eq_ok.mpr ⟨rfl, ?_⟩)
    have hsize := ofNat_le32_leBytes size (leBytes 2 blen.toNat)
    have hblen := ofNat_le16_leBytes blen []
    exact congrArg₂ (Instr.dl type counter) hsize hblen
  | csrw index v =>
    refine (decode_csrw hcap _).trans (decodeFixed_eq_ok.mpr ⟨rfl, ?_⟩)
    have hv := ofNat_le32_leBytes v []
    exact congrArg (Instr.csrw index) hv
  | csrr index => exact (decode_csrr hcap _).trans (decodeFixed_eq_ok.mpr ⟨rfl, rfl⟩)

/-- Settles O7: `decode_encode`, with the two premises as lengths. -/
theorem decodeOfEncode : Obligations.DecodeOfEncode :=
  fun _ _ hn hfits => decode_encode (encodable_iff.mp hn) (fits_iff.mp hfits)

/-! ## The encoder undoes the decoder -/

/-- A code of format V: what decodes is encoded by the same bytes. -/
theorem encode_of_decodeV {mk : List Byte → Instr} {op : Byte} {t : List Byte} {i : Instr}
    (hmk : ∀ p, encode (mk p) = op :: (leBytes 2 p.length ++ p) ∧ (mk p).payloadLength = p.length)
    (h : decodeV mk (op :: t) = .ok i) : encode i = op :: t ∧ i.payloadLength < 65536 := by
  obtain ⟨p, rfl, hp, rfl⟩ := decodeV_eq_ok h
  obtain ⟨henc, hlen⟩ := hmk p
  exact ⟨henc, hlen ▸ hp⟩

theorem encode_tm_of_bytes (tlmId a b : Byte) :
    encode (.tm tlmId (BitVec.ofNat 16 (le16 [a, b] 0))) = [0x12, tlmId, a, b] := by
  simp only [encode, toNat_ofNat_le16, leBytes_le16]

theorem encode_dl_of_bytes (type counter a b c d e f : Byte) :
    encode (.dl type counter (BitVec.ofNat 32 (le32 [a, b, c, d, e, f] 0)) (BitVec.ofNat 16 (le16 [e, f] 0))) =
      [0x20, type, counter, a, b, c, d, e, f] := by
  simp only [encode, toNat_ofNat_le32, toNat_ofNat_le16, leBytes_le32, leBytes_le16, List.cons_append, List.nil_append]

theorem encode_csrw_of_bytes (index a b c d : Byte) :
    encode (.csrw index (BitVec.ofNat 32 (le32 [a, b, c, d] 0))) = [0x30, index, a, b, c, d] := by
  simp only [encode, toNat_ofNat_le32, leBytes_le32]

/-- The eight codes of the table of R103, or none of them. -/
theorem code_cases (op : Byte) :
    op = 0x01 ∨ op = 0x02 ∨ op = 0x10 ∨ op = 0x11 ∨ op = 0x12 ∨ op = 0x20 ∨ op = 0x30 ∨ op = 0x31 ∨
      op ∉ [0x01, 0x02, 0x10, 0x11, 0x12, 0x20, 0x30, 0x31] := by
  simp only [List.mem_cons, List.not_mem_nil, or_false]
  tauto

/-- A descriptor that decodes is the encoding of its operation; the case split is the decoder's own. -/
theorem encode_of_decode {cap len : Nat} {d : List Byte} {i : Instr} (hcap : len ≤ cap)
    (h : decode cap len d = .ok i) : encode i = d ∧ i.payloadLength < 65536 := by
  cases d with
  | nil => rw [decode_nil hcap] at h; cases h
  | cons op t =>
    rcases code_cases op with rfl | rfl | rfl | rfl | rfl | rfl | rfl | rfl | hop
    · exact encode_of_decodeV (fun _ => ⟨rfl, rfl⟩) (decode_stuff hcap t ▸ h)
    · exact encode_of_decodeV (fun _ => ⟨rfl, rfl⟩) (decode_destuff hcap t ▸ h)
    · exact encode_of_decodeV (fun _ => ⟨rfl, rfl⟩) (decode_tc hcap t ▸ h)
    · exact encode_of_decodeV (fun _ => ⟨rfl, rfl⟩) (decode_tcnr hcap t ▸ h)
    · rw [decode_tm hcap t] at h
      obtain ⟨hlen, rfl⟩ := decodeFixed_eq_ok.mp h
      match t, hlen with
      | [tlmId, a, b], _ => exact ⟨encode_tm_of_bytes tlmId a b, Nat.two_pow_pos 16⟩
    · rw [decode_dl hcap t] at h
      obtain ⟨hlen, rfl⟩ := decodeFixed_eq_ok.mp h
      match t, hlen with
      | [type, counter, a, b, c, d, e, f], _ =>
        exact ⟨encode_dl_of_bytes type counter a b c d e f, Nat.two_pow_pos 16⟩
    · rw [decode_csrw hcap t] at h
      obtain ⟨hlen, rfl⟩ := decodeFixed_eq_ok.mp h
      match t, hlen with
      | [index, a, b, c, d], _ => exact ⟨encode_csrw_of_bytes index a b c d, Nat.two_pow_pos 16⟩
    · rw [decode_csrr hcap t] at h
      obtain ⟨hlen, rfl⟩ := decodeFixed_eq_ok.mp h
      match t, hlen with
      | [index], _ => exact ⟨rfl, Nat.two_pow_pos 16⟩
    · rw [decode_unknown hcap t hop] at h; cases h

theorem decode_ok_le {cap len : Nat} {d : List Byte} {i : Instr} (h : decode cap len d = .ok i) : len ≤ cap := by
  by_contra hlong
  rw [decode_tooLong (by omega)] at h
  cases h

/-- Settles O8: `encode_of_decode`, the descriptor's length being at most `DESC_CAP`. -/
theorem encodeOfDecode : Obligations.EncodeOfDecode := by
  intro g d i h
  obtain ⟨rfl, hn⟩ := encode_of_decode (decode_ok_le h) h
  exact ⟨rfl, encodable_iff.mpr hn, fits_iff.mpr (decode_ok_le h)⟩

/-- The descriptors that decode are the encodings of the operations that are encodable and fit. -/
theorem decode_eq_ok_iff {g : Params} {d : List Byte} {i : Instr} :
    decode g.descCap d.length d = .ok i ↔ encode i = d ∧ i.encodable = true ∧ i.fits g = true := by
  refine ⟨encodeOfDecode g d i, ?_⟩
  rintro ⟨rfl, hn, hfits⟩
  exact decodeOfEncode g i hn hfits

end Sys2Proof
end

section
/-! PROOFS of the statements of 30_encoding.md, part 2: the list (1) to (6) of R114, told as what the decoder and the
legality of the operands answer; an operation with an illegal operand is answered by its first step. -/

namespace Sys2Proof.Machine

open Sys2Proof Sys2Proof.Config

/-! ## The legal indices and values of the control registers (R114 (6), 10_state.md R37) -/

theorem ofIndex_eq_some {index : Byte} {r : Csr} (h : Csr.ofIndex index = some r) : index = r.index :=
  have hr := List.find?_some (p := fun r : Csr => r.index == index) h
  (beq_iff_eq.mp hr).symm

/-- The indices that are not reserved. -/
theorem isSome_ofIndex (index : Byte) : (Csr.ofIndex index).isSome = true ↔
    index ∈ [0x00, 0x01, 0x02, 0x03, 0x04, 0x05, 0x06, 0x07, 0x10, 0x11, 0x12, 0x13, 0x14, 0x15] := by
  change _ ↔ index ∈ Csr.all.map Csr.index
  simp [Csr.ofIndex]

/-! ## The illegal operands (R114 (4) to (6)) -/

theorem dl_operandsLegal_eq_false {g : Params} {type counter : Byte} {size : Word} {blen : Half} :
    (Instr.dl type counter size blen).operandsLegal g = false ↔ size.toNat = 0 ∨ blen.toNat = 0 := by
  simp [Instr.operandsLegal, BitVec.toNat_eq, or_iff_not_imp_left]

theorem csrr_operandsLegal_eq_false {g : Params} {index : Byte} : (Instr.csrr index).operandsLegal g = false ↔
    index ∉ [0x00, 0x01, 0x02, 0x03, 0x04, 0x05, 0x06, 0x07, 0x10, 0x11, 0x12, 0x13, 0x14, 0x15] := by
  rw [← isSome_ofIndex, Instr.operandsLegal, Bool.not_eq_true]

/-- A CSRW is illegal by a reserved index, by the index of a read-only view, or by a value out of the range of one of
the three registers that have a range. -/
theorem csrw_operandsLegal_eq_false {g : Params} {index : Byte} {v : Word} :
    (Instr.csrw index v).operandsLegal g = false ↔
      index ∉ [0x00, 0x01, 0x02, 0x03, 0x04, 0x05, 0x06, 0x07, 0x10, 0x11, 0x12, 0x13, 0x14, 0x15] ∨
      index ∈ [0x11, 0x12, 0x13, 0x14, 0x15] ∨ (index = 0x04 ∧ 65535 < v.toNat) ∨
      (index = 0x05 ∧ (v.toNat < 1 ∨ g.maxPktData < v.toNat)) ∨ (index = 0x07 ∧ 255 < v.toNat) := by
  rw [← isSome_ofIndex, Instr.operandsLegal]
  cases h : Csr.ofIndex index with
  | none => simp
  | some r =>
    obtain rfl := ofIndex_eq_some h
    cases r <;> simp [Csr.index, Csr.writeLegal]
    all_goals omega

/-! ## The list of R114, told by the decoder -/

/-- What R114 answers to a descriptor, given what the decoder makes of it: the decoder's own cases (1) to (3), then the
illegal operands (4) to (6). -/
def decodedAnswer (g : Params) : Except DecodeError Instr → Option Status
  | .error e => some e.status
  | .ok i => if i.operandsLegal g = false then some .badDescriptor else none

theorem decodedAnswer_decodeFixed (g : Params) (len : Nat) (i : Instr) (d : List Byte) :
    decodedAnswer g (decodeFixed len i d) =
      if d.length ≠ len then some .badDescriptor
      else if i.operandsLegal g = false then some .badDescriptor else none := by
  unfold decodeFixed
  split <;> rfl

/-- STUFF and DESTUFF take any payload. -/
theorem decodedAnswer_decodeV_any {g : Params} {mk : List Byte → Instr} (hmk : ∀ p, (mk p).operandsLegal g = true)
    (d : List Byte) : decodedAnswer g (decodeV mk d) =
      if d.length < 3 ∨ d.length ≠ 3 + le16 d 1 then some .badDescriptor else none := by
  unfold decodeV
  split
  · rfl
  · simp [decodedAnswer, hmk]

/-- TC and TCNR take a payload that is not empty (R114 (4)), which the length in the descriptor tells. -/
theorem decodedAnswer_decodeV_nonempty {g : Params} {mk : List Byte → Instr}
    (hmk : ∀ p, (mk p).operandsLegal g = !p.isEmpty) (d : List Byte) : decodedAnswer g (decodeV mk d) =
      if d.length < 3 ∨ d.length ≠ 3 + le16 d 1 then some .badDescriptor
      else if le16 d 1 = 0 then some .badDescriptor else none := by
  unfold decodeV
  split
  case isTrue => rfl
  case isFalse hlen =>
    have hempty : (d.drop 3).isEmpty = true ↔ le16 d 1 = 0 := by
      rw [List.isEmpty_iff, List.drop_eq_nil_iff]
      omega
    simp only [decodedAnswer, hmk, Bool.not_eq_false', hempty]

/-- Of a descriptor that the latch holds, format by format: the cases of the list that name its code. -/
theorem descriptorAnswer_eq_of_fits (g : Params) {d : List Byte} (hcap : d.length ≤ g.descCap) :
    descriptorAnswer g d = decodedAnswer g (decode g.descCap d.length d) := by
  have hcap' : ¬4 + 2 * g.maxPayload < d.length := hcap.not_gt
  cases d with
  | nil =>
    rw [decode_nil hcap]
    simp [descriptorAnswer, decodedAnswer, DecodeError.status]
  | cons op t =>
    unfold descriptorAnswer
    simp only [if_neg hcap']
    rcases code_cases op with rfl | rfl | rfl | rfl | rfl | rfl | rfl | rfl | hop
    · rw [decode_stuff hcap, decodedAnswer_decodeV_any (fun _ => rfl)]
      simp
      rfl
    · rw [decode_destuff hcap, decodedAnswer_decodeV_any (fun _ => rfl)]
      simp
      rfl
    · rw [decode_tc hcap, decodedAnswer_decodeV_nonempty (fun _ => rfl)]
      simp
      rfl
    · rw [decode_tcnr hcap, decodedAnswer_decodeV_nonempty (fun _ => rfl)]
      simp
      rfl
    · rw [decode_tm hcap, decodedAnswer_decodeFixed]
      simp [Instr.operandsLegal]
    · rw [decode_dl hcap, decodedAnswer_decodeFixed]
      simp only [dl_operandsLegal_eq_false, toNat_ofNat_le32, toNat_ofNat_le16]
      simp
    · rw [decode_csrw hcap, decodedAnswer_decodeFixed]
      simp only [csrw_operandsLegal_eq_false, toNat_ofNat_le32]
      simp [ite_or]
    · rw [decode_csrr hcap, decodedAnswer_decodeFixed]
      simp [csrr_operandsLegal_eq_false]
    · rw [decode_unknown hcap t hop]
      simp only [List.getD_cons_zero, hop, not_false_eq_true, if_true]
      rfl

/-- The answer of the list of R114 is the decoder's and, for a descriptor that decodes, that of its operands. -/
theorem descriptorAnswer_eq (g : Params) (d : List Byte) :
    descriptorAnswer g d = decodedAnswer g (decode g.descCap d.length d) := by
  rcases Nat.lt_or_ge g.descCap d.length with hlong | hcap
  · rw [decode_tooLong hlong]
    exact if_pos hlong
  · exact descriptorAnswer_eq_of_fits g hcap

theorem decodedAnswer_eq_none {g : Params} {x : Except DecodeError Instr} :
    decodedAnswer g x = none ↔ ∃ i, x = .ok i ∧ i.operandsLegal g = true := by
  cases x <;> simp [decodedAnswer]

/-- Settles O11: the descriptors that decode are the encodings (`decode_eq_ok_iff`), and the list adds the legality of
the operands (`descriptorAnswer_eq`). -/
theorem legalDescriptorsAreTheWellFormedOnes : Obligations.LegalDescriptorsAreTheWellFormedOnes := by
  intro g d
  rw [descriptorAnswer_eq, decodedAnswer_eq_none]
  simp only [decode_eq_ok_iff, Instr.wellFormed, Bool.and_eq_true, and_assoc]

/-! ## The first step of a port with an illegal descriptor -/

theorem converseOperation_illegal {i : Instr} {s : State} {p : Port} (call : Call) (hp : s.actsAt p .start)
    (h : i.operandsLegal s.cfg = false) : converseOperation i call s = .next (raiseError s p .badDescriptor) := by
  obtain ⟨hget, hph, hpos⟩ := hp
  simp [converseOperation, withPort_of_get _ hget, hph, hpos, h]

theorem execDl_illegal {type counter : Byte} {size : Word} {blen : Half} {s : State} {p : Port}
    (hp : s.actsAt p .start) (h : (Instr.dl type counter size blen).operandsLegal s.cfg = false) :
    execDl type counter size blen s = .next (raiseError s p .badDescriptor) := by
  obtain ⟨hget, hph, hpos⟩ := hp
  simp [execDl, dlRun, withPort_of_get _ hget, hph, hpos, h]

theorem execCsrw_illegal {index : Byte} {v : Word} {s : State} {p : Port} (hp : s.actsAt p .start)
    (h : (Instr.csrw index v).operandsLegal s.cfg = false) :
    execCsrw index v s = .next (raiseError s p .badDescriptor) := by
  obtain ⟨hget, hph, hpos⟩ := hp
  rw [Instr.operandsLegal] at h
  rw [execCsrw, oneStep_start _ hget hph hpos]
  cases hr : Csr.ofIndex index with
  | none => rfl
  | some r =>
    rw [hr] at h
    simp [h]

theorem execCsrr_illegal {index : Byte} {s : State} {p : Port} (hp : s.actsAt p .start)
    (h : (Instr.csrr index).operandsLegal s.cfg = false) :
    execCsrr index s = .next (raiseError s p .badDescriptor) := by
  obtain ⟨hget, hph, hpos⟩ := hp
  have hr : Csr.ofIndex index = none := by simpa [Instr.operandsLegal] using h
  rw [execCsrr, oneStep_start _ hget hph hpos, hr]

/-- R114 (4) to (6): illegal operands are answered by the operation's first step, whatever the operation. -/
theorem exec_illegal {i : Instr} {s : State} {p : Port} (hp : s.actsAt p .start)
    (h : i.operandsLegal s.cfg = false) : exec i s = .next (raiseError s p .badDescriptor) := by
  cases i with
  | stuff | destuff | tm => cases h
  | tc payload => exact converseOperation_illegal _ hp h
  | tcnr payload => exact converseOperation_illegal _ hp h
  | dl type counter size blen => exact execDl_illegal hp h
  | csrw index v => exact execCsrw_illegal hp h
  | csrr index => exact execCsrr_illegal hp h

/-- The first step of a port whose descriptor R114 answers. -/
theorem runPort_answers {c : Nat} {s : State} {p : Port} {st : Status} (hp : s.ports[c]? = some p) (hph : p.ph = .run)
    (hpos : p.pos = .start) (h : decodedAnswer s.cfg (fetch s p) = some st) :
    runPort c s = .next (raiseError { s with actor := c } p st) := by
  cases hi : fetch s p with
  | error e =>
    rw [hi] at h
    obtain rfl := Option.some.inj h
    simp [runPort, hp, hph, hpos, hi]
  | ok i =>
    rw [hi, decodedAnswer] at h
    split_ifs at h with hlegal
    obtain rfl := Option.some.inj h
    rw [runPort_busy hp (by simp [hph]) (by simp [hph]) hi]
    exact exec_illegal ⟨hp, hph, hpos⟩ hlegal

/-- The latch keeps all that the decoder looks at (log 12): of a descriptor that is too long only its length. -/
theorem decode_take (cap : Nat) (d : List Byte) : decode cap d.length (d.take cap) = decode cap d.length d := by
  rcases Nat.lt_or_ge cap d.length with hlong | hcap
  · rw [decode_tooLong hlong, decode_tooLong hlong]
  · rw [List.take_of_length_le hcap]

/-- What the issue of descriptor `d` makes of an idle port (10_state.md R29, log 12). -/
def issuedPort (g : Params) (p : Port) (d : List Byte) : Port :=
  { p.runAt .start with desc := d.take g.descCap, descLen := d.length }

theorem issue_idle {s : State} {c : Nat} {p : Port} (d : List Byte) (hp : s.ports[c]? = some p) (hidle : p.ph = .idle) :
    issue c d s = .next { s with ports := s.ports.set c (issuedPort s.cfg p d) } :=
  (issue_eq d hp).trans (if_pos hidle)

/-- The operation of the port just issued is the descriptor's own, though the latch may have cut it. -/
theorem fetch_issuedPort (s : State) (p : Port) (d : List Byte) :
    fetch s (issuedPort s.cfg p d) = decode s.cfg.descCap d.length d := decode_take _ d

/-- Settles O10: the issue latches the descriptor (`issue_idle`), and the port's first step answers it
(`runPort_answers`). -/
theorem illegalDescriptorIsAnsweredAtDecode : Obligations.IllegalDescriptorIsAnsweredAtDecode := by
  intro s c p d st hp hidle hanswer
  have hport : (s.ports.set c (issuedPort s.cfg p d))[c]? = some (issuedPort s.cfg p d) :=
    List.getElem?_set_self (List.getElem?_eq_some_iff.mp hp).1
  have hdecoded : decodedAnswer s.cfg (fetch s (issuedPort s.cfg p d)) = some st := by
    rw [fetch_issuedPort, ← descriptorAnswer_eq, hanswer]
  have hrun := runPort_answers (s := { s with ports := s.ports.set c (issuedPort s.cfg p d) }) hport rfl rfl hdecoded
  simp only [performAll, perform, issue_idle d hp hidle, hrun, raiseError, respond, State.putPort, List.set_set]
  rfl

end Sys2Proof.Machine
end

section
/-! PROOFS of the statements of 30_encoding.md, part 3: the examples of descriptors, the status codes, and the three
messages the download engine exchanges with the device. -/

namespace Sys2Proof.Machine

open Sys2Proof Sys2Proof.Config

/-! ## The examples and the codes (R113) -/

/-- Settles O9: eight descriptors of fixed bytes decoded, and the table of codes read. -/
theorem specDescriptorsDecodeAndStatusesHaveTheirCodes :
    Obligations.SpecDescriptorsDecodeAndStatusesHaveTheirCodes := by
  refine ⟨rfl, rfl, rfl, rfl, rfl, rfl, rfl, rfl, ?_⟩
  decide

/-! ## The encoders (R101, R102) -/

/-- Byte `k` of a number, counted from the least significant. -/
theorem ofNat_div_eq_extractLsb' {w : Nat} (v : BitVec w) (k : Nat) :
    BitVec.ofNat 8 (v.toNat / 2 ^ k) = v.extractLsb' k 8 := by
  apply BitVec.eq_of_toNat_eq
  rw [BitVec.toNat_ofNat, BitVec.extractLsb'_toNat, Nat.shiftRight_eq_div_pow]

theorem leBytes_two_toNat (v : Half) : leBytes 2 v.toNat = [v.extractLsb' 0 8, v.extractLsb' 8 8] := by
  simp [leBytes, ← ofNat_div_eq_extractLsb']

theorem leBytes_four_toNat (v : Word) :
    leBytes 4 v.toNat = [v.extractLsb' 0 8, v.extractLsb' 8 8, v.extractLsb' 16 8, v.extractLsb' 24 8] := by
  simp [leBytes, ← ofNat_div_eq_extractLsb', Nat.div_div_eq_div_mul]

theorem lengthByte_toNat {v : Word} (h : v.toNat < 256) : lengthByte v.toNat = v.extractLsb' 0 8 := by
  rw [← ofNat_div_eq_extractLsb', lengthByte, if_pos h]
  simp

theorem encLoadBlock_standard {g : Params} (h : g.encoders = .standard) (type counter : Byte) (offset blockLen : Nat) :
    encLoadBlock g type counter offset blockLen =
      0x70 :: type :: counter :: (leBytes 4 offset ++ leBytes 2 blockLen) := by
  rw [encLoadBlock, h]

theorem encInitBurst_standard {g : Params} (h : g.encoders = .standard) (pdl : Nat) :
    encInitBurst g pdl = [0x77, lengthByte pdl, 0x01] := by
  rw [encInitBurst, h]

theorem decBlockStatus_standard {g : Params} (h : g.encoders = .standard) (reply : List Byte) :
    decBlockStatus g reply = ((reply.getD 0 0).getLsbD 0, (reply.getD 0 0).getLsbD 1) := by
  rw [decBlockStatus, h]

theorem encLoadBlock_external {g : Params} (h : g.encoders = .external) (type counter : Byte) (offset blockLen : Nat) :
    encLoadBlock g type counter offset blockLen = contractPayload g (extLoadBlock type counter offset blockLen) := by
  rw [encLoadBlock, h]

theorem encInitBurst_external {g : Params} (h : g.encoders = .external) (pdl : Nat) :
    encInitBurst g pdl = contractPayload g (extInitBurst pdl) := by
  rw [encInitBurst, h]

/-! ## The contract of R101 -/

/-- What a legal configuration grants the three device messages (00_scope.md R8, R101). -/
theorem maxPayload_of_legal {g : Params} (h : g.legal = true) :
    1 ≤ g.maxPayload ∧ (g.encoders = .standard → 9 ≤ g.maxPayload) := by
  simp only [Params.legal, Params.meetsR8, Params.meetsR101, List.all_cons, List.all_nil, id, Bool.and_eq_true,
    Bool.and_true, decide_eq_true_eq] at h
  tauto

/-- The contract holds of an external payload by construction (log 14). -/
theorem length_contractPayload_le {g : Params} (h : 1 ≤ g.maxPayload) (m : Byte × List Byte) :
    (contractPayload g m).length ≤ g.maxPayload := by
  rw [contractPayload, List.length_cons, List.length_take]
  omega

theorem contractPayload_ne_nil (g : Params) (m : Byte × List Byte) : contractPayload g m ≠ [] := List.cons_ne_nil _ _

/-- Settles O36, by the encoders: 9 and 3 bytes of the default ones, the construction of the external ones. -/
theorem deviceMessagesKeepTheirContract : Obligations.DeviceMessagesKeepTheirContract := by
  intro g type counter offset blockLen pdl hlegal
  obtain ⟨hone, hnine⟩ := maxPayload_of_legal hlegal
  cases henc : g.encoders with
  | standard =>
    have hmax := hnine henc
    rw [encLoadBlock_standard henc, encInitBurst_standard henc]
    refine ⟨⟨List.cons_ne_nil _ _, ?_⟩, List.cons_ne_nil _ _, ?_⟩
    · simpa using hmax
    · exact le_trans (by decide : 3 ≤ 9) hmax
  | external =>
    rw [encLoadBlock_external henc, encInitBurst_external henc]
    exact ⟨⟨contractPayload_ne_nil g _, length_contractPayload_le hone _⟩,
      contractPayload_ne_nil g _, length_contractPayload_le hone _⟩

/-! ## The conversations of the engine (42_download.md R204 to R206) -/

/-- Settles O35: each state of the engine names its conversation, whose payload the default encoders write byte by
byte. -/
theorem downloadConversationsCarryTheDeviceMessages : Obligations.DownloadConversationsCarryTheDeviceMessages := by
  intro s type counter size blen henc
  refine ⟨fun hfde hoffset => ?_, fun hfde => ?_, fun hfde hpdl => ?_, fun b more => ?_⟩
  · have hword : (BitVec.ofNat 32 s.dlOffset).toNat = s.dlOffset := BitVec.toNat_ofNat .. ▸ Nat.mod_eq_of_lt hoffset
    have hbytes := leBytes_four_toNat (BitVec.ofNat 32 s.dlOffset)
    rw [hword] at hbytes
    simp only [callOf, dlCall, hfde, encLoadBlock_standard henc, hbytes, leBytes_two_toNat, List.cons_append,
      List.nil_append]
  · simp only [callOf, dlCall, hfde]
  · simp only [callOf, dlCall, hfde, encInitBurst_standard henc, lengthByte_toNat hpdl]
  · exact decBlockStatus_standard henc (b :: more)

end Sys2Proof.Machine
end

section
/-! PROOFS of the statements of 40_frame_codec.md: the scan of the destuffer told at the three places it can stand, the
laws of the two functions, and the two operations, which each answer in one step. -/

namespace Sys2Proof.Machine

open Sys2Proof Sys2Proof.Config

/-! ## Stuffing (R130, R131) -/

@[simp] theorem stuff_cons_marker (esc : Byte) (p : List Byte) : stuff esc (esc :: p) = esc :: esc :: stuff esc p :=
  if_pos rfl

theorem stuff_cons_of_ne {esc b : Byte} (h : b ≠ esc) (p : List Byte) : stuff esc (b :: p) = b :: stuff esc p :=
  if_neg h

theorem stuff_length (esc : Byte) (p : List Byte) : (stuff esc p).length = p.length + p.count esc := by
  induction p with
  | nil => rfl
  | cons b p ih =>
    by_cases h : b = esc
    · subst h
      simp only [stuff_cons_marker, List.length_cons, List.count_cons_self, ih]
      omega
    · simp only [stuff_cons_of_ne h, List.length_cons, List.count_cons_of_ne h, ih]
      omega

/-- Settles O1: the length law by induction on the input, the upper bound is the one that sizes the transmit buffer. -/
theorem stuffedLengthIsInputPlusMarkers : Obligations.StuffedLengthIsInputPlusMarkers := fun esc p =>
  ⟨stuff_length esc p, stuff_length esc p ▸ Nat.le_add_right .., stuff_length_le esc p⟩

theorem stuff_of_clean {esc : Byte} {p : List Byte} (h : esc ∉ p) : stuff esc p = p := by
  induction p with
  | nil => rfl
  | cons b p ih =>
    obtain ⟨hb, hp⟩ := List.ne_and_not_mem_of_not_mem_cons h
    rw [stuff_cons_of_ne hb.symm, ih hp]

/-! ## The scan of the destuffer (R132 to R134) -/

@[simp] theorem destuff_nil (esc : Byte) : destuff esc [] = some [] := rfl

/-- R133: the scan stands on a marker that is the last byte. -/
@[simp] theorem destuff_last_marker (esc : Byte) : destuff esc [esc] = none := if_pos rfl

/-- R134: the byte `x` after a marker is skipped whatever it is. -/
@[simp] theorem destuff_marker_pair (esc x : Byte) (s : List Byte) :
    destuff esc (esc :: x :: s) = (destuff esc s).map (esc :: ·) := if_pos rfl

theorem destuff_cons_of_ne {esc b : Byte} (h : b ≠ esc) (s : List Byte) :
    destuff esc (b :: s) = (destuff esc s).map (b :: ·) := by
  cases s with
  | nil => exact if_neg h
  | cons x s => exact if_neg h

/-- Induction along the scan: it ends, or stands on a last marker, on a marker with the byte it skips, or on a byte that
is not a marker. -/
theorem scan_induction {esc : Byte} {motive : List Byte → Prop} (nil : motive []) (last : motive [esc])
    (pair : ∀ x s, motive s → motive (esc :: x :: s)) (plain : ∀ b s, b ≠ esc → motive s → motive (b :: s))
    (q : List Byte) : motive q := by
  induction q using destuff.induct (esc := esc) with
  | case1 => exact nil
  | case2 => exact last
  | case3 b h => exact plain b [] h nil
  | case4 x s ih => exact pair x s ih
  | case5 b x s h ih => exact plain b (x :: s) h ih

/-- A beginning that destuffs leaves the scan at its end, where it goes on as it began. -/
theorem destuff_append {esc : Byte} {pre out : List Byte} (h : destuff esc pre = some out) (s : List Byte) :
    destuff esc (pre ++ s) = (destuff esc s).map (out ++ ·) := by
  induction pre using scan_induction (esc := esc) generalizing out with
  | nil =>
    obtain rfl := Option.some.inj h
    simp
  | last => simp at h
  | pair x pre ih =>
    obtain ⟨r, hr, rfl⟩ := Option.map_eq_some_iff.mp (destuff_marker_pair .. ▸ h)
    simp [ih hr, Function.comp_def]
  | plain b pre hb ih =>
    obtain ⟨r, hr, rfl⟩ := Option.map_eq_some_iff.mp (destuff_cons_of_ne hb pre ▸ h)
    simp [destuff_cons_of_ne hb, ih hr, Function.comp_def]

/-- R133: a scan that fails has passed all but the last byte, a marker. -/
theorem last_marker_of_destuff_none {esc : Byte} {q : List Byte} (h : destuff esc q = none) :
    ∃ pre out : List Byte, q = pre ++ [esc] ∧ destuff esc pre = some out := by
  induction q using scan_induction (esc := esc) with
  | nil => cases h
  | last => exact ⟨[], [], rfl, rfl⟩
  | pair x s ih =>
    obtain ⟨pre, out, rfl, hpre⟩ := ih (by simpa using h)
    exact ⟨esc :: x :: pre, esc :: out, rfl, by simp [hpre]⟩
  | plain b s hb ih =>
    obtain ⟨pre, out, rfl, hpre⟩ := ih (by simpa [destuff_cons_of_ne hb] using h)
    exact ⟨b :: pre, b :: out, rfl, by simp [destuff_cons_of_ne hb, hpre]⟩

/-- Settles O4: a failing scan ends on a marker (`last_marker_of_destuff_none`), and a beginning that destuffs brings
the scan to the marker after it (`destuff_append`). -/
theorem destuffFailsOnlyOnALastMarker : Obligations.DestuffFailsOnlyOnALastMarker := by
  refine fun esc q => ⟨⟨last_marker_of_destuff_none, ?_⟩, fun x => destuff_marker_pair esc x q⟩
  rintro ⟨pre, out, rfl, hpre⟩
  rw [destuff_append hpre, destuff_last_marker, Option.map_none]

/-! ## The round trip (R136, R137) -/

theorem destuff_stuff (esc : Byte) (p : List Byte) : destuff esc (stuff esc p) = some p := by
  induction p with
  | nil => rfl
  | cons b p ih =>
    by_cases h : b = esc
    · subst h
      rw [stuff_cons_marker, destuff_marker_pair, ih, Option.map_some]
    · rw [stuff_cons_of_ne h, destuff_cons_of_ne h, ih, Option.map_some]

/-- Settles O2. -/
theorem destuffInvertsStuff : Obligations.DestuffInvertsStuff := destuff_stuff

/-- Settles O3: clean data is its own stuffed form, so the round trip tells its destuffed form. -/
theorem cleanDataIsUnchanged : Obligations.CleanDataIsUnchanged := by
  intro esc p h
  have hstuff := stuff_of_clean h
  have hround := destuff_stuff esc p
  rw [hstuff] at hround
  exact ⟨hstuff, hround⟩

/-! ## The two operations (R138, R139) -/

/-- R138: the one step of STUFF. -/
theorem exec_stuff_start {s : State} {p : Port} (payload : List Byte) (hp : s.actsAt p .start) :
    exec (.stuff payload) s = .next (if s.cfg.maxPayload < payload.length then raiseError s p .allocationFailure
      else respond s p .ok (stuff s.cfg.esc payload)) := by
  obtain ⟨hget, hph, hpos⟩ := hp
  exact oneStep_start _ hget hph hpos

/-- R139: the one step of DESTUFF. -/
theorem exec_destuff_start {s : State} {p : Port} (q : List Byte) (hp : s.actsAt p .start) :
    exec (.destuff q) s = .next (if 2 * s.cfg.maxPayload < q.length then raiseError s p .allocationFailure
      else (destuff s.cfg.esc q).elim (raiseError s p .malformedFrame) (respond s p .ok)) := by
  obtain ⟨hget, hph, hpos⟩ := hp
  have hstep : exec (.destuff q) s = execDestuff q s := rfl
  rw [hstep, execDestuff, oneStep_start _ hget hph hpos]
  cases destuff s.cfg.esc q <;> rfl

/-- Settles O5: the two branches of STUFF's step. -/
theorem stuffAnswersInOneStep : Obligations.StuffAnswersInOneStep := by
  intro s p payload hp
  rw [exec_stuff_start payload hp]
  refine ⟨fun hfits => ?_, fun hlong => ?_⟩
  · rw [if_neg hfits.not_gt, respond]
  · rw [if_pos hlong, raiseError, respond]

/-- Settles O6: the three branches of DESTUFF's step. -/
theorem destuffAnswersInOneStep : Obligations.DestuffAnswersInOneStep := by
  intro s p q hp
  rw [exec_destuff_start q hp]
  refine ⟨fun hlong => ?_, fun hfits hnone => ?_, fun payload hfits hsome => ?_⟩
  · rw [if_pos hlong, raiseError, respond]
  · rw [if_neg hfits.not_gt, hnone, Option.elim_none, raiseError, respond]
  · rw [if_neg hfits.not_gt, hsome, Option.elim_some, respond]

end Sys2Proof.Machine
end

section
/-! PROOFS of the statements of 41_transport.md, part 1: the step of a conversation in each of its phases. -/

namespace Sys2Proof.Machine

open Sys2Proof Sys2Proof.Config

/-! ## Inside a conversation an operation's step is the conversation's -/

theorem converseOperation_conversing {s : State} {p : Port} (i : Instr) (call : Call) (hp : s.ports[s.actor]? = some p)
    (hph : p.ph ≠ .run) : converseOperation i call s = converse call s p := by
  rw [converseOperation, withPort_of_get _ hp]
  split
  · exact absurd ‹p.ph = .run› hph
  · rfl

theorem execDl_conversing {type counter : Byte} {size : Word} {blen : Half} {s : State} {p : Port} {call : Call}
    (hp : s.ports[s.actor]? = some p) (hph : p.ph ≠ .run) (hcall : dlCall s = some call) :
    execDl type counter size blen s = converse call s p := by
  rw [execDl, withPort_of_get _ hp]
  split
  · exact absurd ‹p.ph = .run› hph
  · rw [hcall]

/-- R150: TC, TCNR, TM and DL run the same conversation. -/
theorem exec_conversing {s : State} {p : Port} {ph : Phase} {i : Instr} {call : Call} (hp : s.actsIn p ph)
    (hph : ph ≠ .run) (hcall : callOf s i = some call) : exec i s = converse call s p := by
  obtain ⟨hget, rfl⟩ := hp
  cases i with
  | tc | tcnr | tm =>
    obtain rfl := Option.some.inj hcall
    exact converseOperation_conversing _ _ hget hph
  | dl => exact execDl_conversing hget hph hcall
  | stuff | destuff | csrw | csrr => cases hcall

theorem timedOut_of_boundPassed {s : State} {p : Port} (h : s.boundPassed p) : p.timedOut s.now = true :=
  decide_eq_true h

section

variable {call : Call} {s : State} {p : Port}

/-! ## Acquire (R151) -/

theorem converse_acquire_free (hph : p.ph = .acquire) (hfree : s.linkOwner = none) :
    converse call s p = .next ({ s with linkOwner := some s.actor }.putPort (p.enter .encode)) := by
  simp [converse, hph, converseAcquire, takeLink, hfree, onWait_event]

theorem converse_acquire_timeout (hph : p.ph = .acquire) (howned : s.linkOwner ≠ none) (hpassed : s.boundPassed p) :
    converse call s p = .next (s.putPort (p.returning ⟨.linkBusy, []⟩)) := by
  obtain ⟨d, hd⟩ := Option.ne_none_iff_exists'.mp howned
  simp [converse, hph, converseAcquire, takeLink, hd, onWait_timeout _ (timedOut_of_boundPassed hpassed)]

/-! ## Encode (R152, R153) -/

/-- The transmit buffer with the frame of `payload` at its front (R152). -/
def staged (s : State) (payload : List Byte) : State :=
  { s with
    txbuf := frame s.cfg payload ++ s.txbuf.drop (frame s.cfg payload).length
    txlen := (frame s.cfg payload).length }

theorem converse_encode_fits (hph : p.ph = .encode) (hfits : call.payload.length ≤ s.cfg.maxPayload)
    (hbuf : s.txbuf.length = s.cfg.txbufCap) :
    converse call s p = .next ((staged s call.payload).putPort (p.enter .transmit)) := by
  have hframe : (frame s.cfg call.payload).length ≤ s.txbuf.length := hbuf ▸ frame_fits hfits
  simp [converse, hph, converseEncode, hfits.not_gt, staged, writePrefix_eq _ _ hframe]

theorem converse_encode_long (hph : p.ph = .encode) (hlong : s.cfg.maxPayload < call.payload.length) :
    converse call s p = .next (s.putPort (p.exit .allocationFailure [])) := by
  simp [converse, hph, converseEncode, hlong]

/-! ## Transmit (R154) -/

theorem converse_transmit_send (hph : p.ph = .transmit) (hwait : p.waiting = false) :
    converse call s p = .next ((sendFrame s).putPort (p.beginWait s.now s.csr.txDoneTimeout)) := by
  simp [converse, hph, hwait, converseSend]

theorem converse_transmit_done (hph : p.ph = .transmit) (hwait : p.waiting = true) (hdone : s.txDone = true) :
    converse call s p = .next (afterTxDone call { s with txDone := false } p) := by
  simp [converse, hph, hwait, converseTxDone, takeTxDone, hdone, onWait_event]

theorem converse_transmit_timeout (hph : p.ph = .transmit) (hwait : p.waiting = true) (hdone : s.txDone = false)
    (hpassed : s.boundPassed p) : converse call s p = .next (s.putPort (p.exit .transportTimeout [])) := by
  simp [converse, hph, hwait, converseTxDone, takeTxDone, hdone, onWait_timeout _ (timedOut_of_boundPassed hpassed)]

/-- After the completion TCNR leaves (R150, R161). -/
theorem converse_done_tcnr (hph : p.ph = .transmit) (hkind : call.kind = .tcnr) (hwait : p.waiting = true)
    (hdone : s.txDone = true) :
    converse call s p = .next ({ s with txDone := false }.putPort (p.exit .ok [])) := by
  rw [converse_transmit_done hph hwait hdone, afterTxDone, hkind]

/-- After the completion TC waits for its first acknowledgment byte (R155). -/
theorem converse_done_tc (hph : p.ph = .transmit) (hkind : call.kind = .tc) (hwait : p.waiting = true)
    (hdone : s.txDone = true) :
    converse call s p = .next ({ s with txDone := false }.putPort
      ({ p.enter .receive with k := 0 }.beginWait s.now s.csr.rxByteTimeout)) := by
  rw [converse_transmit_done hph hwait hdone, afterTxDone, hkind]

/-- After the completion TM waits for its first reply byte with none counted (R156). -/
theorem converse_done_tm (hph : p.ph = .transmit) (hkind : call.kind = .tm) (hwait : p.waiting = true)
    (hdone : s.txDone = true) :
    converse call s p = .next ({ s with txDone := false, rxcnt := 0 }.putPort
      ((p.enter .receive).beginWait s.now s.csr.rxByteTimeout)) := by
  rw [converse_transmit_done hph hwait hdone, afterTxDone, hkind]

/-! ## Receive, telecommand (R155) -/

theorem converse_ack (hph : p.ph = .receive) (hkind : call.kind = .tc) {b : Byte} {q : List Byte}
    (hq : s.rxq = b :: q) : converse call s p = .next (ackByte b { s with rxq := q } p) := by
  simp [converse, hph, hkind, receiveAck, rxPop_cons hq, onWait_event]

/-- Before the fourth byte a new wait begins, with its own full bound. -/
theorem converse_ack_more (hph : p.ph = .receive) (hkind : call.kind = .tc) {b : Byte} {q : List Byte}
    (hq : s.rxq = b :: q) (hk : p.k + 1 < 4) :
    converse call s p = .next ({ s with rxq := q, ack := s.ack.set p.k b }.putPort
      ({ p with k := p.k + 1 }.beginWait s.now s.csr.rxByteTimeout)) :=
  (converse_ack hph hkind hq).trans (congrArg _ (if_pos hk))

theorem ackResult_eq (g : Params) (ack : List Byte) :
    ackResult g ack = ⟨if ack.getD 2 0 = g.ackOk then .ok else .deviceReportedError, ack⟩ := by
  rw [ackResult, ackStatus]
  split <;> rfl

/-- The fourth byte ends the conversation. -/
theorem converse_ack_last (hph : p.ph = .receive) (hkind : call.kind = .tc) {b : Byte} {q : List Byte}
    (hq : s.rxq = b :: q) (hk : 4 ≤ p.k + 1) :
    converse call s p = .next ({ s with rxq := q, ack := s.ack.set p.k b }.putPort ({ p with k := p.k + 1 }.exit
      (if (s.ack.set p.k b).getD 2 0 = s.cfg.ackOk then .ok else .deviceReportedError) (s.ack.set p.k b))) := by
  rw [converse_ack hph hkind hq, ackByte, if_neg hk.not_gt, ackResult_eq]

theorem converse_ack_timeout (hph : p.ph = .receive) (hkind : call.kind = .tc) (hq : s.rxq = [])
    (hpassed : s.boundPassed p) : converse call s p = .next (s.putPort (p.exit .transportTimeout [])) := by
  simp [converse, hph, hkind, receiveAck, rxPop, hq, onWait_timeout _ (timedOut_of_boundPassed hpassed)]

/-! ## Receive, telemetry (R156, R157) -/

/-- The end test of R97, written out. -/
theorem endPair_iff {g : Params} {buf : List Byte} {n : Nat} :
    endPair g buf n = true ↔ 2 ≤ n ∧ buf.getD (n - 2) 0 = g.esc ∧ buf.getD (n - 1) 0 = g.eom := by
  simp [endPair, and_assoc]

theorem converse_reply (hph : p.ph = .receive) (hkind : call.kind = .tm) {b : Byte} {q : List Byte}
    (hq : s.rxq = b :: q) : converse call s p = .next (replyByte call.req b { s with rxq := q } p) := by
  simp [converse, hph, hkind, receiveReply, rxPop_cons hq, onWait_event]

/-- `s` with the reply byte `b` taken from the head of the queue, which leaves `q`, then stored and counted (R156). -/
def replyStored (s : State) (b : Byte) (q : List Byte) : State :=
  { s with rxq := q, rxbuf := s.rxbuf.set s.rxcnt b, rxcnt := s.rxcnt + 1 }

/-- The end pair ends the conversation with the reply cut. -/
theorem converse_reply_ended (hph : p.ph = .receive) (hkind : call.kind = .tm) {b : Byte} {q : List Byte}
    (hq : s.rxq = b :: q) (hend : endPair s.cfg (s.rxbuf.set s.rxcnt b) (s.rxcnt + 1) = true) :
    converse call s p = .next ((replyStored s b q).putPort { p with
      ret := finishReply s.cfg call.req (s.rxbuf.set s.rxcnt b) (s.rxcnt + 1), ph := .release, waiting := false }) :=
  (converse_reply hph hkind hq).trans (congrArg _ (if_pos hend))

/-- A full buffer without the end pair ends the conversation. -/
theorem converse_reply_full (hph : p.ph = .receive) (hkind : call.kind = .tm) {b : Byte} {q : List Byte}
    (hq : s.rxq = b :: q) (hend : ¬endPair s.cfg (s.rxbuf.set s.rxcnt b) (s.rxcnt + 1) = true)
    (hfull : s.rxcnt + 1 = s.cfg.rxbufCap) :
    converse call s p = .next ((replyStored s b q).putPort (p.exit .allocationFailure [])) :=
  (converse_reply hph hkind hq).trans (congrArg _ ((if_neg hend).trans (if_pos hfull)))

/-- Any other byte begins a new wait. -/
theorem converse_reply_more (hph : p.ph = .receive) (hkind : call.kind = .tm) {b : Byte} {q : List Byte}
    (hq : s.rxq = b :: q) (hend : ¬endPair s.cfg (s.rxbuf.set s.rxcnt b) (s.rxcnt + 1) = true)
    (hroom : s.rxcnt + 1 ≠ s.cfg.rxbufCap) :
    converse call s p = .next ((replyStored s b q).putPort (p.beginWait s.now s.csr.rxByteTimeout)) :=
  (converse_reply hph hkind hq).trans (congrArg _ ((if_neg hend).trans (if_neg hroom)))

theorem converse_reply_timeout (hph : p.ph = .receive) (hkind : call.kind = .tm) (hq : s.rxq = [])
    (hpassed : s.boundPassed p) : converse call s p = .next (s.putPort (p.exit .transportTimeout [])) := by
  simp [converse, hph, hkind, receiveReply, rxPop, hq, onWait_timeout _ (timedOut_of_boundPassed hpassed)]

/-! ## Release (R158) -/

theorem converse_release_held (hph : p.ph = .release) (hhold : call.hold = true) (hok : p.ret.status = .ok) :
    converse call s p = .next (s.putPort (p.returning p.ret)) := by
  simp [converse, hph, converseRelease, hhold, hok]

theorem converse_release_free (hph : p.ph = .release) (hfree : call.hold = false ∨ p.ret.status ≠ .ok) :
    converse call s p = .next ({ s with linkOwner := none }.putPort (p.returning p.ret)) := by
  have hcond : ¬(call.hold = true ∧ p.ret.status = .ok) := by
    rintro ⟨hhold, hok⟩
    rcases hfree with h | h
    · simp [hhold] at h
    · exact h hok
  simp [converse, hph, converseRelease, hcond]

/-! ## The first and the last step of TC, TCNR and TM (R160 to R162) -/

theorem converseOperation_start {i : Instr} (hp : s.actsAt p .start) (hlegal : i.operandsLegal s.cfg = true) :
    converseOperation i call s = .next (beginConverse s p) := by
  obtain ⟨hget, hph, hpos⟩ := hp
  simp [converseOperation, withPort_of_get _ hget, hph, hpos, hlegal]

theorem converseOperation_ret (i : Instr) (hp : s.actsAt p .ret) :
    converseOperation i call s = .next (respond s p p.ret.status (responseData call.kind p.ret)) := by
  obtain ⟨hget, hph, hpos⟩ := hp
  simp [converseOperation, withPort_of_get _ hget, hph, hpos]

theorem tc_operandsLegal {g : Params} {payload : List Byte} (h : payload ≠ []) :
    (Instr.tc payload).operandsLegal g = true := by
  simpa [Instr.operandsLegal] using h

theorem tcnr_operandsLegal {g : Params} {payload : List Byte} (h : payload ≠ []) :
    (Instr.tcnr payload).operandsLegal g = true := tc_operandsLegal (g := g) h

end

/-! ## The statements about one step -/

/-- Settles O19: `Encode` writes `frame`, whose length is that of the stuffed payload and four marker bytes. -/
theorem encodeStagesTheFrame : Obligations.EncodeStagesTheFrame := by
  intro s p i call hp hcall hbuf f
  rw [exec_conversing hp (by decide) hcall]
  refine ⟨fun hfits => ⟨converse_encode_fits hp.2 hfits hbuf, ?_, frame_fits hfits⟩, converse_encode_long hp.2⟩
  calc f.length = (stuff s.cfg.esc call.payload).length + 4 := frame_length s.cfg call.payload
    _ = call.payload.length + call.payload.count s.cfg.esc + 4 := by rw [stuff_length]

/-- Settles O18. -/
theorem acquireTakesAFreeLinkOrTimesOut : Obligations.AcquireTakesAFreeLinkOrTimesOut := by
  intro s p i call hp hcall
  rw [exec_conversing hp (by decide) hcall]
  exact ⟨converse_acquire_free hp.2, converse_acquire_timeout hp.2⟩

/-- Settles O20: the hand-over, the completion for each kind, the timeout. -/
theorem transmitSendsThenWaitsForCompletion : Obligations.TransmitSendsThenWaitsForCompletion := by
  intro s p i call hp hcall
  rw [exec_conversing hp (by decide) hcall]
  exact ⟨converse_transmit_send hp.2, fun hwait hdone hkind => converse_done_tcnr hp.2 hkind hwait hdone,
    fun hwait hdone hkind => converse_done_tc hp.2 hkind hwait hdone,
    fun hwait hdone hkind => converse_done_tm hp.2 hkind hwait hdone, converse_transmit_timeout hp.2⟩

/-- Settles O21: a byte before the fourth, the fourth, the timeout. -/
theorem acknowledgmentIsReadByteByByte : Obligations.AcknowledgmentIsReadByteByByte := by
  intro s p i call hp hcall hkind
  rw [exec_conversing hp (by decide) hcall]
  exact ⟨fun _ _ hq hk => converse_ack_more hp.2 hkind hq hk, fun _ _ hq hk => converse_ack_last hp.2 hkind hq hk,
    converse_ack_timeout hp.2 hkind⟩

/-- Settles O22: the end pair, then the capacity, then a new wait; the timeout. -/
theorem replyIsReadToTheEndPair : Obligations.ReplyIsReadToTheEndPair := by
  intro s p i call hp hcall hkind
  rw [exec_conversing hp (by decide) hcall]
  refine ⟨fun b q hq => ⟨fun hend => ?_, fun hend hfull => ?_, fun hend hroom => ?_⟩,
    converse_reply_timeout hp.2 hkind⟩
  · exact converse_reply_ended hp.2 hkind hq (endPair_iff.mpr hend)
  · exact converse_reply_full hp.2 hkind hq (mt endPair_iff.mp hend) hfull
  · exact converse_reply_more hp.2 hkind hq (mt endPair_iff.mp hend) hroom

/-- Settles O23. -/
theorem releaseFreesTheLink : Obligations.ReleaseFreesTheLink := by
  intro s p i call hp hcall
  rw [exec_conversing hp (by decide) hcall]
  exact ⟨converse_release_held hp.2, converse_release_free hp.2⟩

/-- Settles O24: the two steps of TC, TCNR and TM outside their conversation. -/
theorem transportOperationsBeginAndRespond : Obligations.TransportOperationsBeginAndRespond := by
  intro s p payload tlmId req acquiring
  refine ⟨fun hp hne => ⟨?_, ?_⟩, fun hp => ?_, fun hp => ⟨?_, ?_, ?_⟩⟩
  · exact converseOperation_start hp (tc_operandsLegal hne)
  · exact converseOperation_start hp (tcnr_operandsLegal hne)
  · exact converseOperation_start hp rfl
  · exact converseOperation_ret _ hp
  · exact converseOperation_ret _ hp
  · exact converseOperation_ret _ hp

end Sys2Proof.Machine
end

section
/-! PROOFS of the statements of 41_transport.md, part 2: runs of moves, and the moves of TC, TCNR and TM that are the
same in every conversation: to the frame on the wire, and from the exit to the response. -/

namespace Sys2Proof.Machine

open Sys2Proof Sys2Proof.Config

/-! ## Runs of moves -/

theorem performAll_cons {m : Move} {ms : List Move} {s t : State} {r : Result} (h : perform m s = .next t)
    (hrest : performAll ms t = r) : performAll (m :: ms) s = r := by
  rw [performAll, h]
  exact hrest

theorem performAll_append {ms ms' : List Move} {s t : State} {r : Result} (h : performAll ms s = .next t)
    (hrest : performAll ms' t = r) : performAll (ms ++ ms') s = r := by
  induction ms generalizing s with
  | nil =>
    obtain rfl := Host.Outcome.next.inj h
    exact hrest
  | cons m ms ih =>
    rw [performAll] at h
    split at h
    next s' hm => exact performAll_cons hm (ih h)
    all_goals cases h

/-- `s` with the clock `k` ticks later. -/
def elapsed (s : State) (k : Nat) : State := { s with now := s.now + k }

/-- R283: each tick moves the clock by one. -/
theorem performAll_ticks (k : Nat) (s : State) : performAll (List.replicate k .tick) s = .next (elapsed s k) := by
  induction k generalizing s with
  | zero => rfl
  | succ k ih =>
    refine performAll_cons rfl ((ih (tick s)).trans ?_)
    simp [elapsed, tick, Nat.add_assoc, Nat.add_comm 1]

/-- A bound reached by the ticks since the wait began has passed (R11). -/
theorem boundPassed_of_elapsed {s : State} {p : Port} {k : Nat} (hnow : s.now = p.t0 + k) (hk : p.bound ≤ k) :
    s.boundPassed p := by
  unfold State.boundPassed
  omega

/-- Bytes that fit the queue are appended to it in order (R64). -/
theorem performAll_rx (bs : List Byte) (s : State) (hfits : s.rxq.length + bs.length ≤ s.cfg.rxqCap) :
    performAll (bs.map .rx) s = .next { s with rxq := s.rxq ++ bs } := by
  induction bs generalizing s with
  | nil => simp [performAll]
  | cons b bs ih =>
    rw [List.length_cons] at hfits
    have hpush : rxPush b s = { s with rxq := s.rxq ++ [b] } := if_pos (by omega)
    refine performAll_cons (congrArg Host.Outcome.next hpush) ((ih _ ?_).trans ?_)
    · simp only [List.length_append, List.length_singleton]
      omega
    · simp

/-! ## A port's own moves -/

/-- `s` after moves of port `c` that leave its registers at `q`. -/
def State.actedBy (s : State) (c : Nat) (q : Port) : State := { s with actor := c, ports := s.ports.set c q }

/-- The phases of a conversation (10_state.md R29). -/
def Phase.inConversation : Phase → Bool
  | .idle => false
  | .run => false
  | .done => false
  | _ => true

theorem Phase.ne_of_inConversation {ph : Phase} (h : ph.inConversation = true) :
    ph ≠ .idle ∧ ph ≠ .done ∧ ph ≠ .run := by
  refine ⟨?_, ?_, ?_⟩ <;> rintro rfl <;> cases h

/-- `p` is port `c`, at the start of the operation `i` whose conversation is `call`. -/
structure Starts (s : State) (c : Nat) (p : Port) (i : Instr) (call : Call) : Prop where
  get : s.ports[c]? = some p
  ph : p.ph = .run
  pos : p.pos = .start
  fetched : fetch s p = .ok i
  legal : i.operandsLegal s.cfg = true
  conversation : ∀ t, exec i t = converseOperation i call t

/-- What an operation's own steps keep of the state and of its port: the ports, the parameters, the descriptor. -/
structure SameOperation (s u : State) (p q : Port) : Prop where
  cfg : u.cfg = s.cfg
  ports : u.ports = s.ports
  desc : q.desc = p.desc
  descLen : q.descLen = p.descLen

section

variable {s u v : State} {c : Nat} {p q q' : Port} {i : Instr} {call : Call}

theorem SameOperation.trans (h : SameOperation s u p q) (h' : SameOperation u v q q' := by constructor <;> rfl) :
    SameOperation s v p q' :=
  ⟨h'.cfg.trans h.cfg, h'.ports.trans h.ports, h'.desc.trans h.desc, h'.descLen.trans h.descLen⟩

theorem actedBy_putPort (u : State) (c : Nat) (q q' : Port) : (u.actedBy c q).putPort q' = u.actedBy c q' := by
  simp [State.actedBy, State.putPort]

/-- The registers of a port that waits for the link. -/
def acquiringPort (s : State) (p : Port) : Port := (p.enter .acquire).beginWait s.now s.csr.linkAcqTimeout

/-- R160 to R162: the first step of the operation begins the wait for the link. -/
theorem Starts.perform_start (h : Starts s c p i call) :
    perform (.port c) s = .next (s.actedBy c (acquiringPort s p)) := by
  have hrun : perform (.port c) s = exec i { s with actor := c } :=
    runPort_busy h.get (by simp [h.ph]) (by simp [h.ph]) h.fetched
  rw [hrun, h.conversation]
  exact converseOperation_start (s := { s with actor := c }) ⟨h.get, h.ph, h.pos⟩ h.legal

/-- A later move of the port is the next step of the same operation. -/
theorem Starts.perform_port (h : Starts s c p i call) (hsame : SameOperation s u p q) (hidle : q.ph ≠ .idle)
    (hdone : q.ph ≠ .done) :
    (u.actedBy c q).ports[c]? = some q ∧
      perform (.port c) (u.actedBy c q) = converseOperation i call (u.actedBy c q) := by
  have hc : c < s.ports.length := (List.getElem?_eq_some_iff.mp h.get).1
  have hget : (u.actedBy c q).ports[c]? = some q := by simp [State.actedBy, hsame.ports, hc]
  have hfetch : fetch (u.actedBy c q) q = .ok i := (fetch_congr hsame.cfg hsame.desc hsame.descLen).trans h.fetched
  exact ⟨hget, (runPort_busy hget hidle hdone hfetch).trans (h.conversation _)⟩

/-- A move of the port inside its conversation. -/
theorem Starts.perform_converse (h : Starts s c p i call)
    (hstep : converse call (u.actedBy c q) q = .next ((v.actedBy c q).putPort q'))
    (hph : q.ph.inConversation = true := by rfl) (hsame : SameOperation s u p q := by constructor <;> rfl) :
    perform (.port c) (u.actedBy c q) = .next (v.actedBy c q') := by
  obtain ⟨hidle, hdone, hrun⟩ := Phase.ne_of_inConversation hph
  obtain ⟨hget, hperform⟩ := h.perform_port hsame hidle hdone
  rw [hperform, converseOperation_conversing _ _ hget hrun, hstep, actedBy_putPort]

/-- The move of the port after its conversation is the operation's response. -/
theorem Starts.perform_ret (h : Starts s c p i call) (hph : q.ph = .run) (hpos : q.pos = .ret)
    (hsame : SameOperation s u p q := by constructor <;> rfl) :
    perform (.port c) (u.actedBy c q) =
      .next (u.actedBy c (q.finish q.ret.status (responseData call.kind q.ret))) := by
  obtain ⟨hget, hperform⟩ := h.perform_port hsame (by simp [hph]) (by simp [hph])
  rw [hperform, converseOperation_ret i ⟨hget, hph, hpos⟩, respond, actedBy_putPort]

/-- R158: the last two moves of the port leave the link as the operation found it, free, and respond. -/
theorem Starts.performAll_release (h : Starts s c p i call) (hfree : s.linkOwner = none) (hhold : call.hold = false)
    (st : Status) (data : List Byte) (hsame : SameOperation s u p q := by constructor <;> rfl) :
    performAll [.port c, .port c] (u.actedBy c (q.exit st data)) =
      .next (State.actedBy { u with linkOwner := s.linkOwner } c
        ((q.returning ⟨st, data⟩).finish st (responseData call.kind ⟨st, data⟩))) := by
  have hrelease : perform (.port c) (u.actedBy c (q.exit st data)) =
      .next (State.actedBy { u with linkOwner := none } c (q.returning ⟨st, data⟩)) :=
    h.perform_converse (converse_release_free rfl (.inl hhold)) rfl hsame.trans
  have hrespond := h.perform_ret (u := { u with linkOwner := none }) (q := q.returning ⟨st, data⟩) rfl rfl
    hsame.trans
  rw [hfree]
  exact performAll_cons hrelease (performAll_cons hrespond rfl)

/-! ## From the start to the frame on the wire (R151 to R154) -/

/-- `s` with the link taken by port `c`. -/
def linkTaken (s : State) (c : Nat) : State := { s with linkOwner := some c }

/-- `s` with the link taken by port `c` and the frame of `payload` staged and sent. -/
def frameSent (s : State) (c : Nat) (payload : List Byte) : State :=
  { staged s payload with linkOwner := some c, txDone := false, wireOut := s.wireOut ++ [frame s.cfg payload] }

/-- What is handed over is the frame just staged. -/
theorem sendFrame_staged (s : State) (c : Nat) (payload : List Byte) :
    sendFrame (staged (linkTaken s c) payload) = frameSent s c payload := by
  simp [sendFrame, staged, linkTaken, frameSent]

/-- The registers of a port that waits for its transmission to complete. -/
def sentPort (s : State) (p : Port) : Port := (p.enter .transmit).beginWait s.now s.csr.txDoneTimeout

/-- R151 to R154: the first four moves take the link, stage the frame and hand it over. -/
theorem Starts.performAll_send (h : Starts s c p i call) (hfits : call.payload.length ≤ s.cfg.maxPayload)
    (hfree : s.linkOwner = none) (hbuf : s.txbuf.length = s.cfg.txbufCap) :
    performAll (List.replicate 4 (.port c)) s = .next ((frameSent s c call.payload).actedBy c (sentPort s p)) := by
  have hacquire : perform (.port c) (s.actedBy c (acquiringPort s p)) =
      .next ((linkTaken s c).actedBy c ((acquiringPort s p).enter .encode)) :=
    h.perform_converse (converse_acquire_free rfl hfree)
  have hencode : perform (.port c) ((linkTaken s c).actedBy c ((acquiringPort s p).enter .encode)) =
      .next ((staged (linkTaken s c) call.payload).actedBy c ((acquiringPort s p).enter .transmit)) :=
    h.perform_converse (converse_encode_fits rfl hfits hbuf)
  have hsend : perform (.port c)
        ((staged (linkTaken s c) call.payload).actedBy c ((acquiringPort s p).enter .transmit)) =
      .next ((sendFrame (staged (linkTaken s c) call.payload)).actedBy c (sentPort s p)) :=
    h.perform_converse (converse_transmit_send rfl rfl)
  rw [sendFrame_staged] at hsend
  exact performAll_cons h.perform_start (performAll_cons hacquire (performAll_cons hencode (performAll_cons hsend rfl)))

/-- R282, R154: TX_EVENT and the port's next move, which consumes the completion signal. -/
theorem Starts.performAll_done (h : Starts s c p i call) {payload : List Byte}
    (hnext : converse call (State.actedBy { frameSent s c payload with txDone := true } c (sentPort s p))
      (sentPort s p) = .next ((v.actedBy c (sentPort s p)).putPort q')) :
    performAll [.tx, .port c] ((frameSent s c payload).actedBy c (sentPort s p)) = .next (v.actedBy c q') :=
  performAll_cons rfl (performAll_cons (h.perform_converse hnext) rfl)

end

end Sys2Proof.Machine
end

section
/-! PROOFS of the statements of 41_transport.md, part 3: the two receive loops, and the whole conversations of TC, TCNR
and TM. -/

namespace Sys2Proof.Machine

open Sys2Proof Sys2Proof.Config

/-! ## A buffer that is filled byte by byte -/

/-- `buf` with its first `n` bytes overwritten by those of `bs`. -/
def overwrite (buf bs : List Byte) (n : Nat) : List Byte := bs.take n ++ buf.drop n

theorem overwrite_set {buf bs : List Byte} {n : Nat} (hn : n < bs.length) (hfits : bs.length ≤ buf.length) :
    (overwrite buf bs n).set n bs[n] = overwrite buf bs (n + 1) := by
  have hlen : (bs.take n).length = n := List.length_take_of_le hn.le
  have hdrop : buf.drop n = buf[n] :: buf.drop (n + 1) := List.drop_eq_getElem_cons (by omega)
  have htake : bs.take (n + 1) = bs.take n ++ [bs[n]] := by simp
  rw [overwrite, overwrite, List.set_append_right _ _ hlen.le, hlen, Nat.sub_self, hdrop, htake, List.set_cons_zero,
    List.append_assoc, List.singleton_append]

theorem overwrite_all (buf bs : List Byte) : overwrite buf bs bs.length = bs ++ buf.drop bs.length := by
  rw [overwrite, List.take_length]

theorem overwrite_getD (buf : List Byte) {bs : List Byte} {n k : Nat} (hk : k < n) (hn : n ≤ bs.length) :
    (overwrite buf bs n).getD k 0 = bs.getD k 0 := by
  have hlen : k < (bs.take n).length := by
    rw [List.length_take_of_le hn]
    exact hk
  rw [overwrite, List.getD_append _ _ _ _ hlen, List.getD_eq_getElem?_getD, List.getD_eq_getElem?_getD,
    List.getElem?_take_of_lt hk]

/-! ## The end of a reply (R97, R156, R157) -/

/-- The end test sees only the bytes of the reply. -/
theorem endPair_overwrite (g : Params) (buf : List Byte) {reply : List Byte} {n : Nat} (hn : n ≤ reply.length) :
    endPair g (overwrite buf reply n) n = endPair g reply n := by
  rw [Bool.eq_iff_iff, endPair_iff, endPair_iff]
  refine and_congr_right fun h2 => ?_
  rw [overwrite_getD buf (by omega) hn, overwrite_getD buf (by omega) hn]

theorem endPair_whole (g : Params) (body : List Byte) :
    endPair g (body ++ [g.esc, g.eom]) (body ++ [g.esc, g.eom]).length = true := by
  rw [endPair_iff]
  simp

/-- R157: what `Finish` makes of a whole reply, whatever the rest of the buffer holds. -/
theorem finishReply_append (g : Params) (req : Nat) (reply rest : List Byte) :
    finishReply g req (reply ++ rest) reply.length =
      if reply.length < 7 then ⟨.malformedFrame, []⟩
      else (destuff g.esc ((reply.take (reply.length - 2)).drop 5)).elim ⟨.malformedFrame, []⟩
        fun payload => ⟨.ok, payload.take req⟩ := by
  have hbody : replyBody (reply ++ rest) reply.length = (reply.take (reply.length - 2)).drop 5 := by
    rw [replyBody, List.take_append_of_le_length (Nat.sub_le _ _)]
    rfl
  rw [finishReply, hbody]
  refine if_congr Iff.rfl rfl ?_
  cases destuff g.esc ((reply.take (reply.length - 2)).drop 5) with
  | none => rfl
  | some payload => exact congrArg _ List.take_eq_take_min.symm

/-! ## The receive loops (R155, R156) -/

/-- A move that takes `f j` to `f (j + 1)` for every `j` below `n`, made `n` times. -/
theorem performAll_loop {m : Move} {f : Nat → State} {n : Nat}
    (hstep : ∀ j < n, perform m (f j) = .next (f (j + 1))) : performAll (List.replicate n m) (f 0) = .next (f n) := by
  induction n with
  | zero => rfl
  | succ n ih =>
    rw [List.replicate_succ']
    refine performAll_append (ih fun j hj => hstep j (by omega)) ?_
    exact performAll_cons (hstep n (by omega)) rfl

/-- The registers of a port that waits for a byte. -/
def receivingPort (u : State) (p : Port) : Port := (p.enter .receive).beginWait u.now u.csr.rxByteTimeout

/-- The same port with `n` acknowledgment bytes read. -/
def ackPort (u : State) (p : Port) (n : Nat) : Port := { receivingPort u p with k := n }

/-- `u` with `n` of the acknowledgment bytes `bs` read and the others at the head of the queue. -/
def ackRead (u : State) (bs : List Byte) (n : Nat) : State :=
  { u with rxq := bs.drop n ++ u.rxq, ack := overwrite u.ack bs n }

/-- The frame of `payload` is sent, its completion consumed, and no reply byte counted (R156). -/
def replyAwaited (s : State) (c : Nat) (payload : List Byte) : State := { frameSent s c payload with rxcnt := 0 }

/-- `u` with `n` bytes of `reply` read and the others at the head of the queue. -/
def replyRead (u : State) (reply : List Byte) (n : Nat) : State :=
  { u with rxq := reply.drop n ++ u.rxq, rxbuf := overwrite u.rxbuf reply n, rxcnt := n }

theorem ackRead_all {u : State} {bs : List Byte} (hbs : bs.length = 4) (hack : u.ack.length = 4) :
    ackRead u bs 4 = { u with ack := bs } := by
  rw [ackRead, ← hbs, overwrite_all, List.drop_length, List.drop_eq_nil_of_le (by omega), List.append_nil,
    List.nil_append]

theorem replyRead_all (u : State) (reply : List Byte) :
    replyRead u reply reply.length =
      { u with rxbuf := reply ++ u.rxbuf.drop reply.length, rxcnt := reply.length } := by
  rw [replyRead, overwrite_all, List.drop_length, List.nil_append]

section

variable {s u : State} {c : Nat} {p q : Port} {i : Instr} {call : Call} {bs reply : List Byte} {n : Nat}

theorem ackRead_rxq (u : State) (hn : n < bs.length) : (ackRead u bs n).rxq = bs[n] :: (bs.drop (n + 1) ++ u.rxq) := by
  rw [ackRead, List.drop_eq_getElem_cons hn, List.cons_append]

theorem replyRead_rxq (u : State) (hn : n < reply.length) :
    (replyRead u reply n).rxq = reply[n] :: (reply.drop (n + 1) ++ u.rxq) := by
  rw [replyRead, List.drop_eq_getElem_cons hn, List.cons_append]

/-- R155: a move that reads one of the first three bytes of the acknowledgment `bs`. -/
theorem Starts.perform_ack_more (h : Starts s c p i call) (hsame : SameOperation s u p q) (hkind : call.kind = .tc)
    (hbs : bs.length = 4) (hack : u.ack.length = 4) (hn : n < 3) :
    perform (.port c) ((ackRead u bs n).actedBy c (ackPort u q n)) =
      .next ((ackRead u bs (n + 1)).actedBy c (ackPort u q (n + 1))) := by
  have hstep := converse_ack_more (call := call) (s := (ackRead u bs n).actedBy c (ackPort u q n)) (p := ackPort u q n)
    rfl hkind (ackRead_rxq u (by omega)) (Nat.succ_lt_succ hn)
  refine h.perform_converse (hstep.trans ?_) rfl hsame.trans
  rw [ackRead, ackRead, ← overwrite_set (by omega) (by omega)]
  rfl

/-- R155: the move that reads the fourth byte ends the conversation. -/
theorem Starts.perform_ack_last (h : Starts s c p i call) (hsame : SameOperation s u p q) (hkind : call.kind = .tc)
    (hbs : bs.length = 4) (hack : u.ack.length = 4) :
    perform (.port c) ((ackRead u bs 3).actedBy c (ackPort u q 3)) = .next (State.actedBy { u with ack := bs } c
      ((ackPort u q 4).exit (if bs.getD 2 0 = u.cfg.ackOk then .ok else .deviceReportedError) bs)) := by
  have hset : (overwrite u.ack bs 3).set 3 (bs[3]'(by omega)) = bs := by
    rw [overwrite_set (by omega) (by omega)]
    exact congrArg State.ack (ackRead_all hbs hack)
  have hrest : bs.drop 4 = [] := List.drop_eq_nil_of_le hbs.le
  have hstep := converse_ack_last (call := call) (s := (ackRead u bs 3).actedBy c (ackPort u q 3)) (p := ackPort u q 3)
    rfl hkind (ackRead_rxq u (by omega)) le_rfl
  refine h.perform_converse (hstep.trans ?_) rfl hsame.trans
  simp only [State.actedBy, ackRead, ackPort, hset, hrest]
  rfl

/-- R155: the four moves that read the acknowledgment `bs`. -/
theorem Starts.performAll_ack (h : Starts s c p i call) (hsame : SameOperation s u p q) (hkind : call.kind = .tc)
    (hbs : bs.length = 4) (hack : u.ack.length = 4) :
    performAll (List.replicate 4 (.port c)) ((ackRead u bs 0).actedBy c (ackPort u q 0)) =
      .next (State.actedBy { u with ack := bs } c
        ((ackPort u q 4).exit (if bs.getD 2 0 = u.cfg.ackOk then .ok else .deviceReportedError) bs)) := by
  have hthree : performAll (List.replicate 3 (.port c)) ((ackRead u bs 0).actedBy c (ackPort u q 0)) =
      .next ((ackRead u bs 3).actedBy c (ackPort u q 3)) :=
    performAll_loop (f := fun n => (ackRead u bs n).actedBy c (ackPort u q n))
      fun n hn => h.perform_ack_more hsame hkind hbs hack hn
  exact performAll_append hthree (performAll_cons (h.perform_ack_last hsame hkind hbs hack) rfl)

/-- R156: a move that reads a byte of `reply` that is not its last. -/
theorem Starts.perform_reply_more (h : Starts s c p i call) (hsame : SameOperation s u p q) (hkind : call.kind = .tm)
    (hbuf : u.rxbuf.length = u.cfg.rxbufCap) (hfits : reply.length ≤ u.cfg.rxbufCap) (hn : n + 1 < reply.length)
    (hend : ¬endPair u.cfg reply (n + 1) = true) :
    perform (.port c) ((replyRead u reply n).actedBy c (receivingPort u q)) =
      .next ((replyRead u reply (n + 1)).actedBy c (receivingPort u q)) := by
  have hset := overwrite_set (buf := u.rxbuf) (bs := reply) (n := n) (by omega) (by omega)
  have hopen : ¬endPair u.cfg ((overwrite u.rxbuf reply n).set n (reply[n]'(by omega))) (n + 1) = true := by
    rwa [hset, endPair_overwrite _ _ hn.le]
  have hstep := converse_reply_more (call := call) (s := (replyRead u reply n).actedBy c (receivingPort u q))
    (p := receivingPort u q) rfl hkind (replyRead_rxq u (by omega)) hopen (hn.trans_le hfits).ne
  refine h.perform_converse (hstep.trans ?_) rfl hsame.trans
  rw [replyRead, replyRead, ← hset]
  rfl

/-- R156, R157: the move that reads the last byte of `reply` cuts the reply. -/
theorem Starts.perform_reply_last (h : Starts s c p i call) (hsame : SameOperation s u p q) (hkind : call.kind = .tm)
    (hbuf : u.rxbuf.length = u.cfg.rxbufCap) (hfits : reply.length ≤ u.cfg.rxbufCap) (hn : n + 1 = reply.length)
    (hend : endPair u.cfg reply reply.length = true) {r : Response}
    (hr : finishReply u.cfg call.req (reply ++ u.rxbuf.drop reply.length) reply.length = r) :
    perform (.port c) ((replyRead u reply n).actedBy c (receivingPort u q)) =
      .next ((replyRead u reply reply.length).actedBy c ((receivingPort u q).exit r.status r.data)) := by
  have hset : (overwrite u.rxbuf reply n).set n (reply[n]'(by omega)) = overwrite u.rxbuf reply reply.length := by
    rw [overwrite_set (by omega) (by omega), hn]
  have hended : endPair u.cfg ((overwrite u.rxbuf reply n).set n (reply[n]'(by omega))) (n + 1) = true := by
    rwa [hset, hn, endPair_overwrite _ _ le_rfl]
  have hstep := converse_reply_ended (call := call) (s := (replyRead u reply n).actedBy c (receivingPort u q))
    (p := receivingPort u q) rfl hkind (replyRead_rxq u (by omega)) hended
  refine h.perform_converse (hstep.trans ?_) rfl hsame.trans
  rw [← overwrite_all] at hr
  simp only [State.actedBy, replyStored, replyRead, hset, hn, hr]
  rfl

/-- R156: the moves that read a reply whose only end pair is its last two bytes. -/
theorem Starts.performAll_reply (h : Starts s c p i call) (hsame : SameOperation s u p q) (hkind : call.kind = .tm)
    (hbuf : u.rxbuf.length = u.cfg.rxbufCap) (hfits : reply.length ≤ u.cfg.rxbufCap)
    (hearly : ∀ n < reply.length, ¬endPair u.cfg reply n = true) (hend : endPair u.cfg reply reply.length = true)
    {r : Response} (hr : finishReply u.cfg call.req (reply ++ u.rxbuf.drop reply.length) reply.length = r) :
    performAll (List.replicate reply.length (.port c)) ((replyRead u reply 0).actedBy c (receivingPort u q)) =
      .next ((replyRead u reply reply.length).actedBy c ((receivingPort u q).exit r.status r.data)) := by
  obtain ⟨m, hm⟩ : ∃ m, reply.length = m + 1 := Nat.exists_eq_succ_of_ne_zero (by
    obtain ⟨htwo, _⟩ := endPair_iff.mp hend
    omega)
  have hmost : performAll (List.replicate m (.port c)) ((replyRead u reply 0).actedBy c (receivingPort u q)) =
      .next ((replyRead u reply m).actedBy c (receivingPort u q)) :=
    performAll_loop (f := fun n => (replyRead u reply n).actedBy c (receivingPort u q))
      fun n hn => h.perform_reply_more hsame hkind hbuf hfits (by omega) (hearly _ (by omega))
  have hlast := h.perform_reply_last hsame hkind hbuf hfits hm.symm hend hr
  rw [show List.replicate reply.length (Move.port c) = List.replicate m (.port c) ++ [.port c] by
    rw [hm, List.replicate_succ']]
  exact performAll_append hmost (performAll_cons hlast rfl)

/-- Bytes that arrive while the queue is empty stand in it in order. -/
theorem performAll_rx_of_empty {v : State} (hempty : v.rxq = []) (hfits : bs.length ≤ v.cfg.rxqCap) (c : Nat)
    (q : Port) :
    performAll (bs.map .rx) (v.actedBy c q) = .next (State.actedBy { v with rxq := bs ++ v.rxq } c q) := by
  have hqueue : v.rxq ++ bs = bs ++ v.rxq := by rw [hempty, List.append_nil, List.nil_append]
  refine (performAll_rx bs (v.actedBy c q) ?_).trans ?_
  · simpa [State.actedBy, hempty] using hfits
  · rw [← hqueue]
    rfl

/-- R151, R271: the link stays owned until the bound has passed. -/
theorem Starts.performAll_busy (h : Starts s c p i call) {d k : Nat} (howned : s.linkOwner = some d)
    (hk : s.csr.linkAcqTimeout.toNat ≤ k) :
    performAll ([.port c] ++ List.replicate k .tick ++ [.port c, .port c]) s =
      .next { s with
        actor := c
        now := s.now + k
        ports := s.ports.set c { p with
          rsp := ⟨.linkBusy, []⟩, ret := ⟨.linkBusy, []⟩, ph := .done, pos := .start, t0 := s.now
          bound := s.csr.linkAcqTimeout.toNat, waiting := false } } := by
  have hticks : performAll (List.replicate k .tick) (s.actedBy c (acquiringPort s p)) =
      .next ((elapsed s k).actedBy c (acquiringPort s p)) := performAll_ticks k _
  have hpassed : ((elapsed s k).actedBy c (acquiringPort s p)).boundPassed (acquiringPort s p) :=
    boundPassed_of_elapsed rfl hk
  have hbusy : perform (.port c) ((elapsed s k).actedBy c (acquiringPort s p)) =
      .next ((elapsed s k).actedBy c ((acquiringPort s p).returning ⟨.linkBusy, []⟩)) :=
    h.perform_converse (converse_acquire_timeout rfl (by simp [elapsed, State.actedBy, howned]) hpassed)
  have hrespond := h.perform_ret (u := elapsed s k) (q := (acquiringPort s p).returning ⟨.linkBusy, []⟩) rfl rfl
  have hdata : responseData call.kind ⟨.linkBusy, []⟩ = [] := by cases call.kind <;> rfl
  rw [port_returning_ret, hdata] at hrespond
  exact performAll_append (performAll_append (performAll_cons h.perform_start rfl) hticks)
    (performAll_cons hbusy (performAll_cons hrespond rfl))

end

/-! ## The statements about whole conversations -/

/-- Settles O25: the frame, the completion, the four bytes of the acknowledgment, the exit. -/
theorem telecommandRunsToItsAcknowledgment : Obligations.TelecommandRunsToItsAcknowledgment := by
  intro s c p payload b0 b1 b2 b3 hget hph hpos hfetch hne hfits hfree hq hcap hbuf hack f r
  have h : Starts s c p (.tc payload) (tcCall payload) :=
    ⟨hget, hph, hpos, hfetch, tc_operandsLegal hne, fun _ => rfl⟩
  have hsend := h.performAll_send hfits hfree hbuf
  have hdone : performAll [.tx, .port c] ((frameSent s c payload).actedBy c (sentPort s p)) =
      .next ((frameSent s c payload).actedBy c (ackPort s p 0)) :=
    h.performAll_done (converse_done_tc rfl rfl rfl rfl)
  have hpush : performAll ([b0, b1, b2, b3].map .rx) ((frameSent s c payload).actedBy c (ackPort s p 0)) =
      .next ((ackRead (frameSent s c payload) [b0, b1, b2, b3] 0).actedBy c (ackPort s p 0)) :=
    performAll_rx_of_empty (v := frameSent s c payload) (bs := [b0, b1, b2, b3]) hq hcap c _
  have hread := h.performAll_ack (u := frameSent s c payload) (q := p) (bs := [b0, b1, b2, b3])
    (by constructor <;> rfl) rfl rfl hack
  have hrelease := h.performAll_release (u := { frameSent s c payload with ack := [b0, b1, b2, b3] })
    (q := ackPort s p 4) hfree rfl r.status r.data
  exact performAll_append (performAll_append hsend (performAll_append hdone hpush)) (performAll_append hread hrelease)

/-- Settles O26: the frame, the completion, the exit; no move of these reads the queue. -/
theorem telecommandWithoutReplyLeavesTheQueue : Obligations.TelecommandWithoutReplyLeavesTheQueue := by
  intro s c p payload hget hph hpos hfetch hne hfits hfree hbuf f
  have h : Starts s c p (.tcnr payload) (tcnrCall payload) :=
    ⟨hget, hph, hpos, hfetch, tcnr_operandsLegal hne, fun _ => rfl⟩
  have hsend := h.performAll_send hfits hfree hbuf
  have hdone : performAll [.tx, .port c] ((frameSent s c payload).actedBy c (sentPort s p)) =
      .next ((frameSent s c payload).actedBy c ((sentPort s p).exit .ok [])) :=
    h.performAll_done (converse_done_tcnr rfl rfl rfl rfl)
  have hrelease := h.performAll_release (u := frameSent s c payload) (q := sentPort s p) hfree rfl .ok []
  have hrun : performAll (List.replicate 4 (.port c) ++ ([.tx, .port c] ++ [.port c, .port c])) s = _ :=
    performAll_append hsend (performAll_append hdone hrelease)
  exact hrun

/-- Settles O27: the frame, the completion, the reply up to its end pair, the exit. -/
theorem telemetryReplyIsCutAndDestuffed : Obligations.TelemetryReplyIsCutAndDestuffed := by
  intro s c p tlmId req reply hget hph hpos hfetch hpay hfree hq hbuf hrxbuf hqueue hfits hbody hearly f r
  have h : Starts s c p (.tm tlmId req) (tmCall tlmId req) := ⟨hget, hph, hpos, hfetch, rfl, fun _ => rfl⟩
  have hend : endPair s.cfg reply reply.length = true := by
    obtain ⟨body, rfl⟩ := hbody
    exact endPair_whole s.cfg body
  have hopen : ∀ n < reply.length, ¬endPair s.cfg reply n = true := by
    intro n hn he
    obtain ⟨htwo, hpair⟩ := endPair_iff.mp he
    exact hearly n htwo hn hpair
  have hr : finishReply s.cfg req.toNat (reply ++ s.rxbuf.drop reply.length) reply.length = r := by
    rw [finishReply_append]
    refine if_congr Iff.rfl rfl ?_
    cases destuff s.cfg.esc ((reply.take (reply.length - 2)).drop 5) <;> rfl
  have hsend := h.performAll_send hpay hfree hbuf
  have hdone : performAll [.tx, .port c] ((frameSent s c [tlmId]).actedBy c (sentPort s p)) =
      .next ((replyAwaited s c [tlmId]).actedBy c (receivingPort s p)) :=
    h.performAll_done (converse_done_tm rfl rfl rfl rfl)
  have hpush : performAll (reply.map .rx) ((replyAwaited s c [tlmId]).actedBy c (receivingPort s p)) =
      .next ((replyRead (replyAwaited s c [tlmId]) reply 0).actedBy c (receivingPort s p)) :=
    performAll_rx_of_empty (v := replyAwaited s c [tlmId]) hq hqueue c _
  have hread := h.performAll_reply (u := replyAwaited s c [tlmId]) (q := p) (by constructor <;> rfl) rfl hrxbuf hfits
    hopen hend hr
  rw [replyRead_all] at hread
  have hrelease := h.performAll_release hfree rfl r.status r.data (q := receivingPort s p)
    (u := { replyAwaited s c [tlmId] with rxbuf := reply ++ s.rxbuf.drop reply.length, rxcnt := reply.length })
  rw [List.replicate_add]
  exact performAll_append (performAll_append (performAll_append hsend hdone) hpush) (performAll_append hread hrelease)

/-- Settles O28: the frame, the ticks up to the bound, the exit. -/
theorem missingTransmitCompleteTimesOut : Obligations.MissingTransmitCompleteTimesOut := by
  intro s c p payload k hget hph hpos hfetch hne hfits hfree hbuf hk f
  have h : Starts s c p (.tc payload) (tcCall payload) :=
    ⟨hget, hph, hpos, hfetch, tc_operandsLegal hne, fun _ => rfl⟩
  have hsend := h.performAll_send hfits hfree hbuf
  have hticks : performAll (List.replicate k .tick) ((frameSent s c payload).actedBy c (sentPort s p)) =
      .next ((elapsed (frameSent s c payload) k).actedBy c (sentPort s p)) := performAll_ticks k _
  have hpassed : ((elapsed (frameSent s c payload) k).actedBy c (sentPort s p)).boundPassed (sentPort s p) :=
    boundPassed_of_elapsed rfl hk
  have htimeout : perform (.port c) ((elapsed (frameSent s c payload) k).actedBy c (sentPort s p)) =
      .next ((elapsed (frameSent s c payload) k).actedBy c ((sentPort s p).exit .transportTimeout [])) :=
    h.perform_converse (converse_transmit_timeout rfl rfl rfl hpassed)
  have hrelease := h.performAll_release (u := elapsed (frameSent s c payload) k) (q := sentPort s p) hfree rfl
    .transportTimeout []
  exact performAll_append (performAll_append hsend hticks) (performAll_cons htimeout hrelease)

/-- Settles O29: the three operations run the same conversation. -/
theorem busyLinkIsAnsweredLinkBusy : Obligations.BusyLinkIsAnsweredLinkBusy := by
  intro s c d p i k hget hph hpos hfetch hkind howned hk
  obtain ⟨call, h⟩ : ∃ call, Starts s c p i call := by
    rcases hkind with ⟨payload, rfl, hne⟩ | ⟨payload, rfl, hne⟩ | ⟨tlmId, req, rfl⟩
    · exact ⟨tcCall payload, hget, hph, hpos, hfetch, tc_operandsLegal hne, fun _ => rfl⟩
    · exact ⟨tcnrCall payload, hget, hph, hpos, hfetch, tcnr_operandsLegal hne, fun _ => rfl⟩
    · exact ⟨tmCall tlmId req, hget, hph, hpos, hfetch, rfl, fun _ => rfl⟩
  exact h.performAll_busy howned hk

end Sys2Proof.Machine
end

section
/-! PROOFS of the statements of 41_transport.md, part 4: every exit frees the locks. -/

namespace Sys2Proof.Machine

open Sys2Proof Sys2Proof.Config

/-- R159, R216: a port that is IDLE or DONE owns neither lock. -/
theorem PortLocks.owns_nothing_outside {s : State} {c : Nat} {p : Port} (h : PortLocks s c p)
    (hph : p.ph = .idle ∨ p.ph = .done) : s.linkOwner ≠ some c ∧ s.sessionOwner ≠ some c := by
  rcases hph with hph | hph
  · exact h.owns_nothing (by rw [hph]; rfl) (not_inSession_of_idle hph)
  · exact h.owns_nothing (by rw [hph]; rfl) (not_inSession_of_done hph)

/-- R329: a lock has an owner only among the ports, so with every port idle it has none. -/
theorem quiescent_of_ended {s : State} (h : s.lockInv) (hended : s.ended) : s.quiescent := by
  obtain ⟨hports, hrange, hrests⟩ := (lockInv_iff s).mp h
  have hnone (c : Nat) : ¬(s.linkOwner = some c ∨ s.sessionOwner = some c) := fun hc => by
    have hp := List.getElem?_eq_getElem (hrange c hc)
    obtain ⟨hlink, hsession⟩ := (hports c _ hp).owns_nothing_outside (.inl (hended _ (List.mem_of_getElem? hp)))
    exact hc.elim hlink hsession
  have hlink : s.linkOwner = none := Option.eq_none_iff_forall_ne_some.mpr fun c hc => hnone c (.inl hc)
  have hsession : s.sessionOwner = none := Option.eq_none_iff_forall_ne_some.mpr fun c hc => hnone c (.inr hc)
  obtain ⟨hfde, hsink⟩ := hrests hsession
  exact ⟨hended, hlink, hsession, hfde, hsink⟩

/-- Settles O56: by the part of the lock invariant that speaks of the port (`PortLocks`). -/
theorem everyExitFreesTheLocks : Obligations.EveryExitFreesTheLocks := by
  intro s h
  obtain ⟨hports, _, _⟩ := (lockInv_iff s).mp h
  refine ⟨quiescent_of_ended h, fun c p hp hph => (hports c p hp).owns_nothing_outside hph,
    fun c p i hp hph hi htransport => ?_⟩
  have hdl : ¬RunsDl s p := not_runsDl hi (by
    rcases htransport with ⟨payload, rfl | rfl⟩ | ⟨tlmId, req, rfl⟩ <;> simp)
  exact ((hports c p hp).owns_nothing (by rw [hph]; rfl) (not_inSession_of_not_dl hdl)).1

end Sys2Proof.Machine
end

section
/-! PROOFS of the statements of 42_download.md, part 1: the step of a download at each position of its
procedure (R201). -/

namespace Sys2Proof.Machine

open Sys2Proof Sys2Proof.Config

/-! ## The registers of a port that stays in `RUN` -/

theorem runAt_of_run {p : Port} (hph : p.ph = .run) (pos : RunPos) :
    p.runAt pos = { p with pos := pos, waiting := false } := by
  rw [Port.runAt, ← hph]

theorem aborting_of_run {p : Port} (hph : p.ph = .run) (st : Status) (data : List Byte) :
    p.aborting st data = { p with ret := ⟨st, data⟩, pos := .abort, waiting := false } := by
  rw [Port.aborting, ← hph]

section

variable {s s' : State} {p : Port} {type counter : Byte} {size : Word} {blen : Half} {pos : RunPos}

/-! ## The step at each position -/

theorem State.actsAt.acting (hp : s.actsAt p pos) : s.ports[s.actor]? = some p := hp.1

theorem State.actsAt.inRun (hp : s.actsAt p pos) : p.ph = .run := hp.2.1

theorem State.actsAt.position (hp : s.actsAt p pos) : p.pos = pos := hp.2.2

theorem exec_dl_run (hp : s.actsAt p pos) :
    exec (.dl type counter size blen) s = dlRun type counter size blen s p := by
  rw [exec, execDl, withPort_of_get _ hp.acting, hp.inRun]

theorem exec_dl_start (hp : s.actsAt p .start) (hsize : size ≠ 0) (hblen : blen ≠ 0) :
    exec (.dl type counter size blen) s = .next (dlStart s p) := by
  have hlegal : (Instr.dl type counter size blen).operandsLegal s.cfg = true := by
    simpa [Instr.operandsLegal] using And.intro hsize hblen
  rw [exec_dl_run hp, dlRun, hp.position, hlegal]
  rfl

theorem exec_dl_session (hp : s.actsAt p .session) : exec (.dl type counter size blen) s = dlSession s p := by
  rw [exec_dl_run hp, dlRun, hp.position]

theorem exec_dl_create (hp : s.actsAt p .create) :
    exec (.dl type counter size blen) s = .next (dlCreate type counter size blen s p) := by
  rw [exec_dl_run hp, dlRun, hp.position]

theorem exec_dl_opening (hp : s.actsAt p .opening) :
    exec (.dl type counter size blen) s = .next (dlOpen type counter s p) := by
  rw [exec_dl_run hp, dlRun, hp.position]

theorem exec_dl_request (hp : s.actsAt p .request) :
    exec (.dl type counter size blen) s = .next (dlRequest s p) := by
  rw [exec_dl_run hp, dlRun, hp.position]

theorem exec_dl_poll (hp : s.actsAt p .poll) : exec (.dl type counter size blen) s = .next (dlPoll s p) := by
  rw [exec_dl_run hp, dlRun, hp.position]

theorem exec_dl_burst (hp : s.actsAt p .burst) : exec (.dl type counter size blen) s = .next (dlBurst s p) := by
  rw [exec_dl_run hp, dlRun, hp.position]

theorem exec_dl_ret (hp : s.actsAt p .ret) : exec (.dl type counter size blen) s = dlReturned s p := by
  rw [exec_dl_run hp, dlRun, hp.position]

theorem exec_dl_loop (hp : s.actsAt p .loop) : exec (.dl type counter size blen) s = .next (dlLoop s p) := by
  rw [exec_dl_run hp, dlRun, hp.position]

theorem exec_dl_attempt (hp : s.actsAt p .attempt) :
    exec (.dl type counter size blen) s = .next (dlAttempt s p) := by
  rw [exec_dl_run hp, dlRun, hp.position]

theorem exec_dl_packet (hp : s.actsAt p .packet) : exec (.dl type counter size blen) s = dlPacket s p := by
  rw [exec_dl_run hp, dlRun, hp.position]

theorem exec_dl_check (hp : s.actsAt p .check) : exec (.dl type counter size blen) s = .next (dlCheck s p) := by
  rw [exec_dl_run hp, dlRun, hp.position]

theorem exec_dl_deliver (hp : s.actsAt p .deliver) :
    exec (.dl type counter size blen) s = .next (dlDeliver s p) := by
  rw [exec_dl_run hp, dlRun, hp.position]

theorem exec_dl_blockEnd (hp : s.actsAt p .blockEnd) :
    exec (.dl type counter size blen) s = .next (dlBlockEnd s p) := by
  rw [exec_dl_run hp, dlRun, hp.position]

theorem exec_dl_close (hp : s.actsAt p .close) : exec (.dl type counter size blen) s = .next (dlClose s p) := by
  rw [exec_dl_run hp, dlRun, hp.position]

/-! ## The calls of the sink (R52) -/

/-- A draw leaves the sink itself alone. -/
theorem sink_of_sinkDraw {ok : Bool} (h : sinkDraw s = (ok, s')) : s'.sink = s.sink := by
  obtain ⟨a, d, hframe⟩ := sinkDraw_frame s
  rw [h] at hframe
  exact (congrArg State.sink hframe :)

/-- An accepted write appends to the current file. -/
theorem sinkWrite_accepted {f : FileId} (h : sinkDraw s = (true, s')) (hcur : s.sink.cur = some f) (bs : List Byte) :
    sinkWrite bs s = (true, { s' with
      sink := ⟨filesPut f ((fileContent s f).getD [] ++ bs) s.sink.files, some f⟩ }) := by
  have hsink := sink_of_sinkDraw h
  simp [sinkWrite, h, sinkAppend, fileContent, hsink, hcur]

theorem sinkWrite_failed (h : sinkDraw s = (false, s')) (bs : List Byte) : sinkWrite bs s = (false, s') := by
  rw [sinkWrite, h]

theorem sinkWriteSome_of_ne_nil {bs : List Byte} (h : bs ≠ []) (s : State) : sinkWriteSome bs s = sinkWrite bs s := by
  cases bs with
  | nil => exact absurd rfl h
  | cons b rest => rfl

/-! ## The session (R202, R203) -/

theorem dlSession_free (hfree : s.sessionOwner = none) :
    dlSession s p = .next ({ s with sessionOwner := some s.actor }.putPort (p.runAt .create)) := by
  simp [dlSession, takeSession, hfree, onWait_event]

theorem dlSession_timeout (howned : s.sessionOwner ≠ none) (hpassed : s.boundPassed p) :
    dlSession s p = .next (s.putPort (p.finish .sessionBusy [])) := by
  obtain ⟨d, hd⟩ := Option.ne_none_iff_exists'.mp howned
  simp [dlSession, takeSession, hd, onWait_timeout _ (timedOut_of_boundPassed hpassed), raiseError, respond]

theorem dlOpen_failed (h : sinkDraw s = (false, s')) :
    dlOpen type counter s p = { s' with sessionOwner := none }.putPort (p.finish .filesystemFailure []) := by
  simp [dlOpen, sinkOpen, h, raiseError, respond]

/-- On `ok` the file that `sinkOpened` makes current. -/
theorem dlOpen_ok (h : sinkDraw s = (true, s')) :
    dlOpen type counter s p =
      { sinkOpened ⟨type, counter⟩ s' with sinkOpen := true }.putPort (p.runAt .request) := by
  simp [dlOpen, sinkOpen, h]

theorem sinkOpened_new {f : FileId} (h : fileContent s f = none) :
    sinkOpened f s = { s with sink := ⟨filesPut f [] s.sink.files, some f⟩ } := by
  simp [sinkOpened, h]

theorem sinkOpened_existing {f : FileId} (h : fileContent s f ≠ none) :
    sinkOpened f s = { s with
      sink := ⟨filesPut f (openedContent s.draws) s.sink.files, some f⟩, draws := s.draws + 1 } := by
  obtain ⟨old, hold⟩ := Option.ne_none_iff_exists'.mp h
  simp [sinkOpened, hold]

/-! ## One packet byte (R208) -/

theorem dlPacket_byte {b : Byte} {q : List Byte} (hq : s.rxq = b :: q) :
    dlPacket s p = .next (packetByte b { s with rxq := q } p) := by
  simp [dlPacket, rxPop_cons hq, onWait_event]

theorem dlPacket_timeout (hq : s.rxq = []) (hpassed : s.boundPassed p) :
    dlPacket s p = .next (s.putPort (p.runAt .attempt)) := by
  simp [dlPacket, rxPop, hq, onWait_timeout _ (timedOut_of_boundPassed hpassed)]

/-- Before the end of the packet a new wait begins, with its own full bound. -/
theorem exec_dl_byte_more {b : Byte} {q : List Byte} (hp : s.actsAt p .packet) (hq : s.rxq = b :: q)
    (hk : p.k + 1 ≠ s.cfg.pktLen s.dlPdl.toNat) :
    exec (.dl type counter size blen) s = .next ({ s with rxq := q, pktbuf := s.pktbuf.set p.k b }.putPort
      { p with k := p.k + 1, t0 := s.now, bound := s.csr.rxByteTimeout.toNat, waiting := true }) :=
  ((exec_dl_packet hp).trans (dlPacket_byte hq)).trans (congrArg _ (if_neg hk))

/-- After the last byte of the packet the port goes on to the look at the counter. -/
theorem exec_dl_byte_last {b : Byte} {q : List Byte} (hp : s.actsAt p .packet) (hq : s.rxq = b :: q)
    (hk : p.k + 1 = s.cfg.pktLen s.dlPdl.toNat) :
    exec (.dl type counter size blen) s = .next ({ s with rxq := q, pktbuf := s.pktbuf.set p.k b }.putPort
      { p with pos := .check, k := p.k + 1, waiting := false }) := by
  rw [exec_dl_packet hp, dlPacket_byte hq, packetByte]
  dsimp only
  rw [if_pos hk, runAt_of_run hp.inRun]

/-! ## The heads of the receive loop and of the attempt loop, and the counter (R207, R208, R211) -/

theorem exec_dl_loop_next (hp : s.actsAt p .loop) (hidx : s.idx < s.npk) :
    exec (.dl type counter size blen) s =
      .next ({ s with tries := s.dlRetry.toNat + 1 }.putPort { p with pos := .attempt, waiting := false }) := by
  rw [exec_dl_loop hp, dlLoop, if_pos hidx, runAt_of_run hp.inRun]

theorem exec_dl_loop_end (hp : s.actsAt p .loop) (hend : s.npk ≤ s.idx) :
    exec (.dl type counter size blen) s = .next (s.putPort { p with pos := .blockEnd, waiting := false }) := by
  rw [exec_dl_loop hp, dlLoop, if_neg hend.not_gt, runAt_of_run hp.inRun]

theorem exec_dl_attempt_next (hp : s.actsAt p .attempt) (htries : 0 < s.tries) :
    exec (.dl type counter size blen) s = .next ({ s with tries := s.tries - 1 }.putPort
      { p with pos := .packet, k := 0, t0 := s.now, bound := s.csr.rxByteTimeout.toNat, waiting := true }) := by
  rw [exec_dl_attempt hp, dlAttempt, if_pos htries, runAt_of_run hp.inRun]
  rfl

theorem exec_dl_check_goes_on (hp : s.actsAt p .check) (hidx : s.idx ≤ packetCounter s.cfg s.pktbuf) :
    exec (.dl type counter size blen) s =
      .next ({ s with seq := packetCounter s.cfg s.pktbuf }.putPort { p with pos := .deliver, waiting := false }) := by
  rw [exec_dl_check hp, dlCheck, if_neg hidx.not_gt, runAt_of_run hp.inRun]

/-! ## One index of the sequencing check (R209, R210) -/

/-- What one turn writes: the fill below the counter, the packet's own data at it. -/
def indexBytes (s : State) : List Byte :=
  if s.idx < s.seq then List.replicate (blockShare s) s.dlFill else packetData s.pktbuf (blockShare s)

/-- Where the port goes after a turn: to the next index below the counter, out of the check at it. -/
def afterIndex (s : State) (p : Port) : Port :=
  { p with pos := if s.idx < s.seq then .deliver else .loop, waiting := false }

/-- With its bytes written, or none to write, a turn takes its share of the block, for the fill and the data alike. -/
theorem dlDeliver_written (hph : p.ph = .run) (h : sinkWriteSome (indexBytes s) s = (true, s')) :
    dlDeliver s p = { s' with rem := s.rem - blockShare s, idx := s.idx + 1 }.putPort (afterIndex s p) := by
  by_cases hlt : s.idx < s.seq
  · rw [indexBytes, if_pos hlt] at h
    simp [dlDeliver, hlt, h, afterIndex, runAt_of_run hph]
  · rw [indexBytes, if_neg hlt] at h
    simp [dlDeliver, hlt, h, afterIndex, runAt_of_run hph]

theorem dlDeliver_failed (h : sinkWriteSome (indexBytes s) s = (false, s')) :
    dlDeliver s p = s'.putPort (p.aborting .filesystemFailure []) := by
  by_cases hlt : s.idx < s.seq
  · rw [indexBytes, if_pos hlt] at h
    simp [dlDeliver, hlt, h, dlAbort]
  · rw [indexBytes, if_neg hlt] at h
    simp [dlDeliver, hlt, h, dlAbort]

theorem exec_dl_index_empty (hp : s.actsAt p .deliver) (hbs : indexBytes s = []) :
    exec (.dl type counter size blen) s =
      .next ({ s with rem := s.rem - blockShare s, idx := s.idx + 1 }.putPort (afterIndex s p)) := by
  have hnone : sinkWriteSome (indexBytes s) s = (true, s) := by rw [hbs, sinkWriteSome]
  rw [exec_dl_deliver hp, dlDeliver_written hp.inRun hnone]

theorem exec_dl_index_accepted {f : FileId} (hp : s.actsAt p .deliver) (hbs : indexBytes s ≠ [])
    (hdraw : sinkDraw s = (true, s')) (hcur : s.sink.cur = some f) :
    exec (.dl type counter size blen) s = .next ({ s' with
      sink := ⟨filesPut f ((fileContent s f).getD [] ++ indexBytes s) s.sink.files, some f⟩
      rem := s.rem - blockShare s
      idx := s.idx + 1 }.putPort (afterIndex s p)) := by
  have hwrite := (sinkWriteSome_of_ne_nil hbs s).trans (sinkWrite_accepted hdraw hcur _)
  rw [exec_dl_deliver hp, dlDeliver_written hp.inRun hwrite]

theorem exec_dl_index_failed (hp : s.actsAt p .deliver) (hbs : indexBytes s ≠ []) (hdraw : sinkDraw s = (false, s')) :
    exec (.dl type counter size blen) s = .next (s'.putPort (p.aborting .filesystemFailure [])) := by
  have hwrite := (sinkWriteSome_of_ne_nil hbs s).trans (sinkWrite_failed hdraw _)
  rw [exec_dl_deliver hp, dlDeliver_failed hwrite]

/-! ## The end of a block and of the download (R214, R217) -/

theorem freeLink_eq (s : State) :
    freeLink s = { s with linkOwner := if s.linkOwner = some s.actor then none else s.linkOwner } := by
  rcases freeLink_cases s with ⟨howner, hfree⟩ | ⟨hother, hfree⟩
  · rw [hfree, if_pos howner]
  · rw [hfree, if_neg hother]

theorem dlClose_eq {ok : Bool} (h : sinkDraw s = (ok, s')) :
    dlClose s p = { s' with
      sink := ⟨s.sink.files, none⟩
      sinkOpen := false
      fdeState := .idle
      sessionOwner := none }.putPort (p.finish (if ok then .ok else .filesystemFailure) []) := by
  rw [← sink_of_sinkDraw h]
  cases ok <;> simp [dlClose, sinkClose, h, raiseError, respond]

end

/-! ## The statements about one step -/

/-- Settles O30: by the test of the operands and the two ends of the wait. -/
theorem sessionLockIsTakenOrBusy : Obligations.SessionLockIsTakenOrBusy := by
  intro s p type counter size blen
  refine ⟨fun hp hsize hblen => ?_, fun hp hzero => ?_, fun hp hfree => ?_, fun hp howned hpassed => ?_⟩
  · rw [exec_dl_start hp hsize hblen, dlStart, runAt_of_run hp.inRun]
    rfl
  · refine execDl_illegal hp (dl_operandsLegal_eq_false.mpr ?_)
    exact hzero.imp (congrArg BitVec.toNat) (congrArg BitVec.toNat)
  · rw [exec_dl_session hp, dlSession_free hfree, runAt_of_run hp.inRun]
  · rw [exec_dl_session hp, dlSession_timeout howned hpassed]

/-- Settles O31: by the branches of the hole-map check. -/
theorem sessionIsCreated : Obligations.SessionIsCreated := by
  intro s p type counter size blen hp latched
  have hfill : s.csr.gapFillByte.setWidth 8 = s.csr.gapFillByte.extractLsb' 0 8 :=
    BitVec.setWidth_eq_extractLsb' (by decide)
  refine ⟨fun hfits => ?_, fun hlong => ?_⟩
  · rw [exec_dl_create hp, dlCreate]
    dsimp only
    rw [if_neg hfits.not_gt, hfill, runAt_of_run hp.inRun]
  · rw [exec_dl_create hp, dlCreate]
    dsimp only
    rw [if_pos hlong, hfill]
    rfl

/-- Settles O32: by the answer of the sink, then by whether it had the file. -/
theorem sinkOpenDecidesTheSession : Obligations.SinkOpenDecidesTheSession := by
  intro s s' p ok type counter size blen hp hdraw
  have hsink := sink_of_sinkDraw hdraw
  have hcontent : fileContent s' ⟨type, counter⟩ = fileContent s ⟨type, counter⟩ := by
    rw [fileContent, fileContent, hsink]
  rw [exec_dl_opening hp, ← hcontent, ← hsink]
  refine ⟨?_, ?_, ?_⟩
  · rintro rfl
    rw [dlOpen_failed hdraw]
  · rintro rfl hnew
    rw [dlOpen_ok hdraw, sinkOpened_new hnew, runAt_of_run hp.inRun]
  · rintro rfl hold
    rw [dlOpen_ok hdraw, sinkOpened_existing hold, runAt_of_run hp.inRun]
    exact ⟨_, rfl⟩

/-- Settles O34: by the position, then by the poll budget. -/
theorem downloadConversationsBegin : Obligations.DownloadConversationsBegin := by
  intro s p type counter size blen acquiring
  refine ⟨fun hp => ?_, fun hp hnone => ?_, fun hp hbudget hleft => ?_, fun hp hbudget hspent => ?_, fun hp => ?_⟩
  · rw [exec_dl_request hp]
    rfl
  · rw [exec_dl_poll hp, dlPoll, if_pos hnone]
    rfl
  · rw [exec_dl_poll hp, dlPoll, if_neg hbudget, if_neg hleft]
    rfl
  · rw [exec_dl_poll hp, dlPoll, if_neg hbudget, if_pos hspent, dlAbort, aborting_of_run hp.inRun]
  · rw [exec_dl_burst hp]
    rfl

/-- Settles O37: by the state of the engine and the status of the answer. -/
theorem downloadConversationsReturn : Obligations.DownloadConversationsReturn := by
  intro s p type counter size blen hp abort goes
  have habort (st : Status) (data : List Byte) : dlAbort s p st data = s.putPort (abort st data) :=
    congrArg s.putPort (aborting_of_run hp.inRun st data)
  have hgoes (pos : RunPos) : p.runAt pos = goes pos := runAt_of_run hp.inRun pos
  rw [exec_dl_ret hp]
  refine ⟨fun hfde hok => ?_, fun hfde hbad => ?_, fun hfde hbad => ?_, fun hfde hok hshort => ?_,
    fun ready perr hfde hok hlong hflags => ?_, fun hfde hok => ?_⟩
  · simp only [dlReturned, hfde, dlRequested, if_pos hok, hgoes]
  · rcases hfde with hfde | hfde
    · simp only [dlReturned, hfde, dlRequested, if_neg hbad, habort]
    · simp only [dlReturned, hfde, dlBurstStarted, if_neg hbad, habort]
  · simp only [dlReturned, hfde, dlPolled, if_neg hbad, habort]
  · simp only [dlReturned, hfde, dlPolled, if_pos hok, if_pos hshort, habort]
  · simp only [dlReturned, hfde, dlPolled, if_pos hok, if_neg hlong.not_gt, hflags]
    cases perr with
    | true => simp only [habort, if_true]
    | false => cases ready <;> simp [hgoes]
  · simp only [dlReturned, hfde, dlBurstStarted, if_pos hok, hgoes]

/-- Settles O38: by the position, then by what each head tests. -/
theorem packetReadIsRetriedThenFails : Obligations.PacketReadIsRetriedThenFails := by
  intro s p type counter size blen
  refine ⟨exec_dl_loop_next, exec_dl_loop_end, exec_dl_attempt_next, fun hp hnone => ?_, fun hp hq hpassed => ?_,
    fun b q hp hq => ⟨fun hmore => exec_dl_byte_more hp hq hmore.ne, exec_dl_byte_last hp hq⟩⟩
  · rw [exec_dl_attempt hp, dlAttempt, if_neg hnone.not_gt, dlAbort, aborting_of_run hp.inRun]
  · rw [exec_dl_packet hp, dlPacket_timeout hq hpassed, runAt_of_run hp.inRun]

/-- Settles O40: by the comparison of the counter with the expected index. -/
theorem regressingCounterAborts : Obligations.RegressingCounterAborts := by
  intro s p type counter size blen hp seq
  refine ⟨fun hbelow => ?_, exec_dl_check_goes_on hp⟩
  rw [exec_dl_check hp, dlCheck, ← aborting_of_run hp.inRun]
  exact congrArg _ (if_pos hbelow)

/-- Settles O41: by what there is to write and the answer of the sink. -/
theorem oneIndexIsWrittenOrAborts : Obligations.OneIndexIsWrittenOrAborts := by
  intro s s' p type counter size blen hp k bs goes
  refine ⟨exec_dl_index_empty hp, fun hbs hdraw f hcur => exec_dl_index_accepted hp hbs hdraw hcur,
    fun hbs hdraw => ?_⟩
  rw [exec_dl_index_failed hp hbs hdraw, aborting_of_run hp.inRun]

/-- Settles O45: the end of a block frees the link, the end of the download the session. -/
theorem completedBlocksEndTheDownload : Obligations.CompletedBlocksEndTheDownload := by
  intro s s' p ok type counter size blen
  refine ⟨fun hp => ?_, fun hp hdraw => ?_⟩
  · have hpos : (if s.dlSize.toNat ≤ s.dlOffset + s.dlBlockLen.toNat then RunPos.close else .request) =
        if s.dlOffset + s.dlBlockLen.toNat < s.dlSize.toNat then .request else .close := by
      rw [← ite_not, if_congr not_le rfl rfl]
    simp only [exec_dl_blockEnd hp, dlBlockEnd, freeLink_eq, runAt_of_run hp.inRun, hpos]
  · rw [exec_dl_close hp, dlClose_eq hdraw]

end Sys2Proof.Machine
end

section
/-! PROOFS of the statements of 42_download.md, part 2: runs of steps, and the run that reads a whole packet (R208). -/

namespace Sys2Proof.Machine

open Sys2Proof Sys2Proof.Config

/-! ## Runs of steps of one operation -/

theorem execTimes_succ {i : Instr} {s t : State} {n : Nat} (h : exec i s = .next t) :
    execTimes (n + 1) i s = execTimes n i t := by
  rw [execTimes, h]

theorem execTimes_add {i : Instr} {s t : State} {m n : Nat} (h : execTimes m i s = .next t) :
    execTimes (m + n) i s = execTimes n i t := by
  induction m generalizing s with
  | zero =>
    obtain rfl := Host.Outcome.next.inj h
    rw [Nat.zero_add]
  | succ m ih =>
    rw [execTimes] at h
    split at h
    next s' hm => rw [Nat.succ_add, execTimes_succ hm, ih h]
    all_goals cases h

/-- A step that takes `f j` to `f (j + 1)` for every `j` below `n`, made `n` times. -/
theorem execTimes_loop {i : Instr} {f : Nat → State} {n : Nat} (hstep : ∀ j < n, exec i (f j) = .next (f (j + 1))) :
    execTimes n i (f 0) = .next (f n) := by
  induction n with
  | zero => rfl
  | succ n ih =>
    rw [execTimes_add (ih fun j hj => hstep j (by omega)), execTimes_succ (hstep n (by omega)), execTimes]

section

variable {s : State} {p q : Port} {pos : RunPos}

/-- The acting port stands where its registers were written to say. -/
theorem actsAt_putPort (hget : s.ports[s.actor]? = some p) (hph : q.ph = .run) (hpos : q.pos = pos) :
    (s.putPort q).actsAt q pos :=
  ⟨putPort_get_actor s q (List.getElem?_eq_some_iff.mp hget).1, hph, hpos⟩

/-! ## A whole packet (R208) -/

/-- `s` in an attempt with `n` bytes of the packet `d` read and the others in the queue before `rest`. -/
def packetRead (s : State) (d rest : List Byte) (n : Nat) : State :=
  { s with tries := s.tries - 1, rxq := d.drop n ++ rest, pktbuf := overwrite s.pktbuf d n }

/-- The registers of port `p` that waits for byte `n` of a packet. -/
def packetPort (s : State) (p : Port) (n : Nat) : Port :=
  { p with pos := .packet, k := n, t0 := s.now, bound := s.csr.rxByteTimeout.toNat, waiting := true }

variable {d rest : List Byte} {n : Nat} (type counter : Byte) (size : Word) (blen : Half)

theorem packetRead_rxq (s : State) (rest : List Byte) (hn : n < d.length) :
    (packetRead s d rest n).rxq = d[n] :: (d.drop (n + 1) ++ rest) := by
  rw [packetRead, List.drop_eq_getElem_cons hn, List.cons_append]

theorem packetRead_actsAt (hp : s.actsAt p pos) :
    ((packetRead s d rest n).putPort (packetPort s p n)).actsAt (packetPort s p n) .packet :=
  actsAt_putPort (s := packetRead s d rest n) hp.acting hp.inRun rfl

theorem exec_dl_packet_more (hp : s.actsAt p pos) (hd : d.length = s.cfg.pktLen s.dlPdl.toNat)
    (hfits : d.length ≤ s.pktbuf.length) (hn : n + 1 < d.length) :
    exec (.dl type counter size blen) ((packetRead s d rest n).putPort (packetPort s p n)) =
      .next ((packetRead s d rest (n + 1)).putPort (packetPort s p (n + 1))) := by
  refine (exec_dl_byte_more (packetRead_actsAt hp) (packetRead_rxq s rest (by omega)) (hn.trans_eq hd).ne).trans ?_
  have hset := overwrite_set (buf := s.pktbuf) (bs := d) (n := n) (by omega) hfits
  simp only [State.putPort, packetRead, packetPort, hset, List.set_set]

theorem exec_dl_packet_last (hp : s.actsAt p pos) (hd : d.length = s.cfg.pktLen s.dlPdl.toNat)
    (hfits : d.length ≤ s.pktbuf.length) (hn : n + 1 = d.length) :
    exec (.dl type counter size blen) ((packetRead s d rest n).putPort (packetPort s p n)) =
      .next ((packetRead s d rest d.length).putPort
        { packetPort s p d.length with pos := .check, waiting := false }) := by
  refine (exec_dl_byte_last (packetRead_actsAt hp) (packetRead_rxq s rest (by omega)) (hn.trans hd)).trans ?_
  have hset := overwrite_set (buf := s.pktbuf) (bs := d) (n := n) (by omega) hfits
  simp only [State.putPort, packetRead, packetPort, hset, List.set_set, hn]

theorem packetRead_all (s : State) (d rest : List Byte) :
    packetRead s d rest d.length =
      { s with tries := s.tries - 1, rxq := rest, pktbuf := d ++ s.pktbuf.drop d.length } := by
  rw [packetRead, overwrite_all, List.drop_length, List.nil_append]

/-- R208: the head of the attempt, every byte but the last, and the last. -/
theorem execTimes_dl_attempt (hp : s.actsAt p .attempt) (htries : 0 < s.tries)
    (hd : d.length = s.cfg.pktLen s.dlPdl.toNat) (hq : s.rxq = d ++ rest) (hfits : d.length ≤ s.pktbuf.length) :
    execTimes (d.length + 1) (.dl type counter size blen) s =
      .next ({ s with tries := s.tries - 1, rxq := rest, pktbuf := d ++ s.pktbuf.drop d.length }.putPort
        { packetPort s p d.length with pos := .check, waiting := false }) := by
  obtain ⟨m, hm⟩ : ∃ m, d.length = m + 1 := Nat.exists_eq_succ_of_ne_zero (by
    rw [hd, Params.pktLen, pktHdrLen]
    omega)
  have hhead : exec (.dl type counter size blen) s = .next ((packetRead s d rest 0).putPort (packetPort s p 0)) := by
    rw [exec_dl_attempt_next hp htries, packetRead, List.drop_zero, ← hq]
    rfl
  have hmost : execTimes m (.dl type counter size blen) ((packetRead s d rest 0).putPort (packetPort s p 0)) =
      .next ((packetRead s d rest m).putPort (packetPort s p m)) :=
    execTimes_loop (f := fun n => (packetRead s d rest n).putPort (packetPort s p n))
      fun n hn => exec_dl_packet_more type counter size blen hp hd hfits (by omega)
  have hlast := exec_dl_packet_last (rest := rest) type counter size blen hp hd hfits hm.symm
  rw [packetRead_all] at hlast
  rw [execTimes_succ hhead, hm, execTimes_add hmost, ← hm, execTimes_succ hlast, execTimes]

end

/-- Settles O39: by the run of the attempt. -/
theorem wholePacketIsReadIntoTheBuffer : Obligations.WholePacketIsReadIntoTheBuffer :=
  fun _ _ type counter size blen _ _ hp htries hd hq hfits =>
    execTimes_dl_attempt type counter size blen hp htries hd hq hfits

end Sys2Proof.Machine
end

section
/-! PROOFS of the statements of 42_download.md, part 3: the fill and the data of one packet are written (R209, R210,
R212). -/

namespace Sys2Proof.Machine

open Sys2Proof Sys2Proof.Config

section

/-! ## What is appended to a file (R52) -/

variable {s : State} {p : Port} {f : FileId} {bs bs' old : List Byte}
  {files files' files'' : List (FileId × List Byte)} {more : List Bool}
  (type counter : Byte) (size : Word) (blen : Half)

/-- File `f` is longer by `bs` and every other file is as it was. -/
structure FileGrown (f : FileId) (bs : List Byte) (files files' : List (FileId × List Byte)) : Prop where
  content : filesGet f files' = (filesGet f files).map (· ++ bs)
  others : ∀ f' : FileId, f' ≠ f → filesGet f' files' = filesGet f' files

theorem FileGrown.refl (f : FileId) (files : List (FileId × List Byte)) : FileGrown f [] files files :=
  ⟨by simp, fun _ _ => rfl⟩

theorem FileGrown.trans (h : FileGrown f bs files files') (h' : FileGrown f bs' files' files'') :
    FileGrown f (bs ++ bs') files files'' where
  content := by
    rw [h'.content, h.content, Option.map_map]
    simp [Function.comp_def]
  others g hg := (h'.others g hg).trans (h.others g hg)

theorem FileGrown.content_of_some (h : FileGrown f bs files files') (hold : filesGet f files = some old) :
    filesGet f files' = some (old ++ bs) := by
  rw [h.content, hold, Option.map_some]

theorem fileGrown_filesPut (hold : filesGet f files = some old) (bs : List Byte) :
    FileGrown f bs files (filesPut f (old ++ bs) files) where
  content := by rw [filesGet_filesPut_self, hold, Option.map_some]
  others _ hg := filesGet_filesPut_other _ _ hg

/-! ## One index with an answer at hand (R209, R210) -/

/-- The registers that the writes of one packet rest on: a packet has data, `pktbuf` holds them, and the current file is
there. -/
structure Writable (s : State) (f : FileId) : Prop where
  pdl : 1 ≤ s.dlPdl.toNat
  fits : 5 + s.dlPdl.toNat ≤ s.pktbuf.length
  cur : s.sink.cur = some f
  present : fileContent s f ≠ none

/-- One turn writes the share of its index. -/
theorem Writable.length_indexBytes (h : Writable s f) : (indexBytes s).length = blockShare s := by
  have hfits := h.fits
  rw [indexBytes, blockShare]
  split
  · rw [List.length_replicate]
  · rw [packetData, List.length_take, List.length_drop, pktHdrLen]
    omega

/-- `s` after one turn that was not refused. -/
def indexWritten (s : State) (f : FileId) (files : List (FileId × List Byte)) (more : List Bool) : State :=
  { s with sinkAnswers := more, sink := ⟨files, some f⟩, rem := s.rem - blockShare s, idx := s.idx + 1 }

theorem Writable.next_index (h : Writable s f) (hgrown : FileGrown f bs s.sink.files files) (more : List Bool)
    (q : Port) : Writable ((indexWritten s f files more).putPort q) f where
  pdl := h.pdl
  fits := h.fits
  cur := rfl
  present := by
    obtain ⟨old, hold⟩ := Option.ne_none_iff_exists'.mp h.present
    exact Option.ne_none_iff_exists'.mpr ⟨_, hgrown.content_of_some hold⟩

/-- One turn takes one answer, none when nothing is left of the block. -/
theorem Writable.exec_dl_index (h : Writable s f) (hp : s.actsAt p .deliver)
    (hanswers : s.sinkAnswers = List.replicate (min 1 s.rem) true ++ more) :
    ∃ files, exec (.dl type counter size blen) s =
        .next ((indexWritten s f files more).putPort (afterIndex s p)) ∧
      FileGrown f (indexBytes s) s.sink.files files := by
  have hlen := h.length_indexBytes
  have hpdl := h.pdl
  rw [blockShare] at hlen
  by_cases hrem : s.rem = 0
  · have hbs : indexBytes s = [] := List.eq_nil_of_length_eq_zero (by omega)
    have hmore : s.sinkAnswers = more := by simpa [hrem] using hanswers
    refine ⟨s.sink.files, ?_, hbs ▸ FileGrown.refl f _⟩
    rw [exec_dl_index_empty hp hbs, indexWritten, ← hmore, ← h.cur]
  · have hbs : indexBytes s ≠ [] := List.ne_nil_of_length_pos (by omega)
    have hone : min 1 s.rem = 1 := by omega
    have hdraw := sinkDraw_settled (hanswers.trans (by rw [hone]; rfl) : s.sinkAnswers = true :: more)
    obtain ⟨old, hold⟩ := Option.ne_none_iff_exists'.mp h.present
    refine ⟨_, ?_, fileGrown_filesPut hold _⟩
    rw [exec_dl_index_accepted hp hbs hdraw h.cur, hold, Option.getD_some, indexWritten]

/-! ## The fill and the data of one packet in closed form (R210, R212) -/

theorem ceilDiv_succ {a b : Nat} (hb : 0 < b) : ceilDiv (a + 1) b = a / b + 1 := by
  rw [ceilDiv, Nat.add_right_comm, Nat.add_sub_cancel, Nat.add_div_right a hb]

theorem ceilDiv_zero {b : Nat} (hb : 0 < b) : ceilDiv 0 b = 0 :=
  Nat.le_zero.mp ((ceilDiv_le_iff hb).mpr (Nat.zero_le _))

/-- Of the answers for the next `n + 1` indices one is for the first, if anything is left of the block. -/
theorem answers_succ {pdl rem : Nat} (n : Nat) (hpdl : 1 ≤ pdl) :
    min (n + 1) (ceilDiv rem pdl) = min 1 rem + min n (ceilDiv (rem - min pdl rem) pdl) := by
  cases rem with
  | zero => simp [ceilDiv_zero hpdl]
  | succ r =>
    have hrest : ceilDiv (r + 1 - min pdl (r + 1)) pdl = r / pdl := by
      rcases Nat.lt_or_ge r pdl with hlt | hge
      · rw [Nat.min_eq_right hlt, Nat.sub_self, ceilDiv_zero hpdl, Nat.div_eq_of_lt hlt]
      · rw [Nat.min_eq_left (by omega), show r + 1 - pdl = r - pdl + 1 by omega, ceilDiv_succ hpdl]
        exact (Nat.div_eq_sub_div hpdl hge).symm
    rw [hrest, ceilDiv_succ hpdl]
    omega

/-- The bytes of fill below the counter of a packet that is `n` indices away. -/
def gapLength (pdl rem n : Nat) : Nat := min rem (n * pdl)

/-- The bytes of the packet's own data after the fill. -/
def ownLength (pdl rem n : Nat) : Nat := min (rem - gapLength pdl rem n) pdl

/-- The fill and the data that a packet `d`, `n` indices away, adds to the file. -/
def packetBytes (pdl : Nat) (fill : Byte) (rem n : Nat) (d : List Byte) : List Byte :=
  List.replicate (gapLength pdl rem n) fill ++ packetData d (ownLength pdl rem n)

theorem gapLength_succ (pdl rem n : Nat) :
    gapLength pdl rem (n + 1) = min pdl rem + gapLength pdl (rem - min pdl rem) n := by
  rw [gapLength, gapLength, Nat.succ_mul]
  omega

theorem ownLength_succ (pdl rem n : Nat) :
    ownLength pdl rem (n + 1) = ownLength pdl (rem - min pdl rem) n := by
  rw [ownLength, ownLength, gapLength_succ, Nat.sub_sub]

theorem packetBytes_succ (pdl : Nat) (fill : Byte) (rem n : Nat) (d : List Byte) :
    packetBytes pdl fill rem (n + 1) d =
      List.replicate (min pdl rem) fill ++ packetBytes pdl fill (rem - min pdl rem) n d := by
  rw [packetBytes, packetBytes, gapLength_succ, ownLength_succ, List.replicate_add, List.append_assoc]

theorem rem_after_packet (pdl rem n : Nat) :
    rem - gapLength pdl rem n - ownLength pdl rem n = rem - (n + 1) * pdl := by
  rw [ownLength, gapLength, Nat.succ_mul]
  omega

/-- `s` after the fill and the data of a packet `n` indices away. -/
def packetWritten (s : State) (n : Nat) (f : FileId) (files : List (FileId × List Byte)) (more : List Bool) : State :=
  { s with
    sinkAnswers := more
    sink := ⟨files, some f⟩
    rem := s.rem - gapLength s.dlPdl.toNat s.rem n - ownLength s.dlPdl.toNat s.rem n
    idx := s.seq + 1 }

/-- R209, R210, R212: one turn for each index up to the counter. -/
theorem Writable.execTimes_dl_packet {n : Nat} (h : Writable s f) (hp : s.actsAt p .deliver) (hseq : s.seq = s.idx + n)
    (hanswers : s.sinkAnswers = List.replicate (min (n + 1) (ceilDiv s.rem s.dlPdl.toNat)) true ++ more) :
    ∃ files, execTimes (n + 1) (.dl type counter size blen) s =
        .next ((packetWritten s n f files more).putPort { p with pos := .loop, waiting := false }) ∧
      FileGrown f (packetBytes s.dlPdl.toNat s.dlFill s.rem n s.pktbuf) s.sink.files files := by
  induction n generalizing s p with
  | zero =>
    rw [answers_succ 0 h.pdl, List.replicate_add, List.append_assoc, Nat.zero_min, List.replicate_zero,
      List.nil_append] at hanswers
    obtain ⟨files, hexec, hgrown⟩ := h.exec_dl_index type counter size blen hp hanswers
    have hat : ¬s.idx < s.seq := by omega
    refine ⟨files, ?_, ?_⟩
    · rw [execTimes_succ hexec, execTimes]
      simp [packetWritten, indexWritten, afterIndex, hseq, gapLength, ownLength, blockShare, Nat.min_comm]
    · simpa [packetBytes, gapLength, ownLength, indexBytes, hat, blockShare, Nat.min_comm] using hgrown
  | succ n ih =>
    rw [answers_succ (n + 1) h.pdl, List.replicate_add, List.append_assoc] at hanswers
    obtain ⟨files, hexec, hgrown⟩ := h.exec_dl_index type counter size blen hp hanswers
    have hbelow : s.idx < s.seq := by omega
    have hport : afterIndex s p = { p with pos := .deliver, waiting := false } := by rw [afterIndex, if_pos hbelow]
    rw [hport] at hexec
    rw [indexBytes, if_pos hbelow] at hgrown
    have hseq' : s.seq = s.idx + 1 + n := by omega
    obtain ⟨files', hrun, hgrown'⟩ := ih (h.next_index hgrown _ { p with pos := .deliver, waiting := false })
      (actsAt_putPort (s := indexWritten s f files
        (List.replicate (min (n + 1) (ceilDiv (s.rem - blockShare s) s.dlPdl.toNat)) true ++ more))
        hp.acting hp.inRun rfl) hseq' rfl
    refine ⟨files', ?_, ?_⟩
    · refine (execTimes_succ hexec).trans (hrun.trans ?_)
      simp [packetWritten, indexWritten, State.putPort, gapLength_succ, ownLength_succ, blockShare, Nat.sub_sub]
    · rw [packetBytes_succ]
      exact hgrown.trans hgrown'

end

/-- Settles O42: the turns up to the counter, and what they append. -/
theorem gapFillHasItsClosedForm : Obligations.GapFillHasItsClosedForm := by
  intro s p type counter size blen f old more hp hidx hpdl hcur hfits hold hanswers gap own
  have h : Writable s f := ⟨hpdl, hfits, hcur, by simp [hold]⟩
  have hseq : s.seq = s.idx + (s.seq - s.idx) := by omega
  obtain ⟨files, hrun, hgrown⟩ := h.execTimes_dl_packet type counter size blen hp hseq hanswers
  refine ⟨files, hrun, ?_, hgrown.others⟩
  rw [hgrown.content_of_some hold, packetBytes, ← List.append_assoc]
  rfl

end Sys2Proof.Machine
end

section
/-! PROOFS of the statements of 42_download.md, part 4: the bytes of a reconstructed block by its packets (R213). -/

namespace Sys2Proof.Machine

open Sys2Proof Sys2Proof.Config

section

variable {g : Params} {pdl npk i rem r : Nat} {fill : Byte} {d : List Byte} {ds : List (List Byte)}

/-! ## One packet of a block -/

/-- The indices from `i` to the counter of packet `d`, its own left out. -/
def missing (g : Params) (i : Nat) (d : List Byte) : Nat := packetCounter g d - i

theorem blockBytes_cons (g : Params) (pdl : Nat) (fill : Byte) (i rem : Nat) (d : List Byte) (ds : List (List Byte)) :
    blockBytes g pdl fill i rem (d :: ds) = packetBytes pdl fill rem (missing g i d) d ++
      blockBytes g pdl fill (packetCounter g d + 1) (rem - (missing g i d + 1) * pdl) ds := by
  rw [← rem_after_packet]
  rfl

theorem length_of_burstRun (h : burstRun g pdl npk i (d :: ds)) : 5 + pdl ≤ d.length := by
  obtain ⟨_, hlen, _, _⟩ := h
  rw [hlen, Params.pktLen, pktHdrLen]
  omega

theorem length_packetBytes (fill : Byte) (rem n : Nat) (hd : 5 + pdl ≤ d.length) :
    (packetBytes pdl fill rem n d).length = min rem ((n + 1) * pdl) := by
  simp only [packetBytes, packetData, ownLength, gapLength, pktHdrLen, List.length_append, List.length_replicate,
    List.length_take, List.length_drop, Nat.succ_mul]
  omega

/-- A block of `npk` packets goes on to cover what is left of it. -/
theorem rest_covered (hi : i ≤ packetCounter g d) (hrem : rem ≤ npk * pdl - i * pdl) :
    rem - (missing g i d + 1) * pdl ≤ npk * pdl - (packetCounter g d + 1) * pdl := by
  have hseq : i * pdl ≤ packetCounter g d * pdl := Nat.mul_le_mul_right pdl hi
  rw [missing, Nat.succ_mul, Nat.succ_mul, Nat.sub_mul]
  omega

/-- R213: what the packets append is exactly what is left of the block. -/
theorem length_blockBytes (h : burstRun g pdl npk i ds) (hrem : rem ≤ npk * pdl - i * pdl) :
    (blockBytes g pdl fill i rem ds).length = rem := by
  induction ds generalizing i rem with
  | nil =>
    have hend : npk * pdl ≤ i * pdl := Nat.mul_le_mul_right pdl h
    rw [blockBytes, List.length_nil]
    omega
  | cons d ds ih =>
    have hd := length_of_burstRun h
    obtain ⟨_, _, hi, hrest⟩ := h
    rw [blockBytes_cons, List.length_append, length_packetBytes _ _ _ hd, ih hrest (rest_covered hi hrem)]
    omega

/-! ## The byte at a position, counted from the index expected -/

theorem packetBytes_fill (n : Nat) (hr : r < rem) (hfill : r < n * pdl) :
    (packetBytes pdl fill rem n d)[r]? = some fill := by
  have hgap : r < gapLength pdl rem n := lt_min hr hfill
  rw [packetBytes, List.getElem?_append_left (by rwa [List.length_replicate]), List.getElem?_replicate, if_pos hgap]

theorem packetBytes_own (n : Nat) (hr : r < rem) (hlow : n * pdl ≤ r) (hhigh : r < (n + 1) * pdl) :
    (packetBytes pdl fill rem n d)[r]? = d[5 + (r - n * pdl)]? := by
  have hgap : gapLength pdl rem n = n * pdl := Nat.min_eq_right (by omega)
  have hown : r - n * pdl < ownLength pdl rem n := by
    rw [ownLength, hgap]
    rw [Nat.succ_mul] at hhigh
    omega
  rw [packetBytes, hgap, List.getElem?_append_right (by rwa [List.length_replicate]), List.length_replicate, packetData,
    List.getElem?_take_of_lt hown, List.getElem?_drop]

theorem blockBytes_first (hd : 5 + pdl ≤ d.length) (hr : r < rem) (hhigh : r < (missing g i d + 1) * pdl) :
    (blockBytes g pdl fill i rem (d :: ds))[r]? = (packetBytes pdl fill rem (missing g i d) d)[r]? := by
  rw [blockBytes_cons, List.getElem?_append_left]
  rw [length_packetBytes _ _ _ hd]
  exact lt_min hr hhigh

theorem blockBytes_later (hd : 5 + pdl ≤ d.length) (hr : r < rem) (hlow : (missing g i d + 1) * pdl ≤ r) :
    (blockBytes g pdl fill i rem (d :: ds))[r]? =
      (blockBytes g pdl fill (packetCounter g d + 1) (rem - (missing g i d + 1) * pdl) ds)[
        r - (missing g i d + 1) * pdl]? := by
  have hlen : (packetBytes pdl fill rem (missing g i d) d).length = (missing g i d + 1) * pdl := by
    rw [length_packetBytes _ _ _ hd]
    omega
  rw [blockBytes_cons, List.getElem?_append_right (by omega), hlen]

/-- The counters of a run rise from the index expected. -/
theorem le_counter_of_burstRun (h : burstRun g pdl npk i ds) : ∀ d ∈ ds, i ≤ packetCounter g d := by
  induction ds generalizing i with
  | nil => simp
  | cons d ds ih =>
    obtain ⟨_, _, hi, hrest⟩ := h
    intro d' hd'
    rcases List.mem_cons.mp hd' with rfl | hd'
    · exact hi
    · have := ih hrest d' hd'
      omega

/-- `b` is byte `k` of the packet with counter `index` if it is one of `ds`, and the fill otherwise. -/
def IsPacketByte (g : Params) (fill : Byte) (ds : List (List Byte)) (index k : Nat) (b : Option Byte) : Prop :=
  (∀ d ∈ ds, packetCounter g d = index → b = d[k]?) ∧ ((∀ d ∈ ds, packetCounter g d ≠ index) → b = some fill)

theorem isPacketByte_fill {index : Nat} (k : Nat) (h : ∀ d ∈ ds, packetCounter g d ≠ index) :
    IsPacketByte g fill ds index k (some fill) :=
  ⟨fun d hd he => absurd he (h d hd), fun _ => rfl⟩

theorem isPacketByte_own {index : Nat} (k : Nat) (hd : packetCounter g d = index)
    (hds : ∀ d' ∈ ds, packetCounter g d' ≠ index) : IsPacketByte g fill (d :: ds) index k d[k]? := by
  refine ⟨fun d' hd' he => ?_, fun hnone => absurd hd (hnone d List.mem_cons_self)⟩
  rcases List.mem_cons.mp hd' with rfl | hd'
  · rfl
  · exact absurd he (hds d' hd')

theorem IsPacketByte.cons {index k : Nat} {b : Option Byte} (h : IsPacketByte g fill ds index k b)
    (hd : packetCounter g d ≠ index) : IsPacketByte g fill (d :: ds) index k b := by
  obtain ⟨hown, hfill⟩ := h
  refine ⟨fun d' hd' he => ?_, fun hnone => hfill fun d' hd' => hnone d' (List.mem_cons_of_mem d hd')⟩
  rcases List.mem_cons.mp hd' with rfl | hd'
  · exact absurd he hd
  · exact hown d' hd' he

/-- R213: position `r` belongs to index `i + r / pdl`, and in its packet to data byte `r % pdl`. -/
theorem isPacketByte_blockBytes (hpdl : 1 ≤ pdl) (h : burstRun g pdl npk i ds) (hrem : rem ≤ npk * pdl - i * pdl)
    (hr : r < rem) :
    IsPacketByte g fill ds (i + r / pdl) (5 + r % pdl) (blockBytes g pdl fill i rem ds)[r]? := by
  induction ds generalizing i rem r with
  | nil =>
    have hend : npk * pdl ≤ i * pdl := Nat.mul_le_mul_right pdl h
    omega
  | cons d ds ih =>
    have hd := length_of_burstRun h
    obtain ⟨_, _, hi, hrest⟩ := h
    have hlater := le_counter_of_burstRun hrest
    have hcounter : packetCounter g d = i + missing g i d := by
      rw [missing]
      omega
    rcases Nat.lt_trichotomy (r / pdl) (missing g i d) with hlt | heq | hgt
    case inl =>
      have hbelow : r < missing g i d * pdl := (Nat.div_lt_iff_lt_mul hpdl).mp hlt
      rw [blockBytes_first hd hr (by rw [Nat.succ_mul]; omega), packetBytes_fill _ hr hbelow]
      refine (isPacketByte_fill _ fun d' hd' => ?_).cons (by omega)
      have := hlater d' hd'
      omega
    case inr.inl =>
      have hsplit := Nat.div_add_mod' r pdl
      have hmod : r % pdl < pdl := Nat.mod_lt r hpdl
      rw [heq] at hsplit
      have hoffset : r - missing g i d * pdl = r % pdl := by omega
      have hhigh : r < (missing g i d + 1) * pdl := by
        rw [Nat.succ_mul]
        omega
      rw [blockBytes_first hd hr hhigh, packetBytes_own _ hr (by omega) hhigh, hoffset]
      refine isPacketByte_own _ (by omega) fun d' hd' => ?_
      have := hlater d' hd'
      omega
    case inr.inr =>
      have habove : (missing g i d + 1) * pdl ≤ r := (Nat.le_div_iff_mul_le hpdl).mp hgt
      have hbyte := ih (r := r - (missing g i d + 1) * pdl) hrest (rest_covered hi hrem) (by omega)
      have hdiv : (r - (missing g i d + 1) * pdl) / pdl = r / pdl - (missing g i d + 1) := by
        rw [mul_comm, Nat.sub_mul_div]
      have hmod : (r - (missing g i d + 1) * pdl) % pdl = r % pdl := by
        rw [mul_comm, Nat.sub_mul_mod (by rwa [mul_comm])]
      have hindex : packetCounter g d + 1 + (r - (missing g i d + 1) * pdl) / pdl = i + r / pdl := by omega
      rw [hindex, hmod] at hbyte
      rw [blockBytes_later hd hr habove]
      exact hbyte.cons (by omega)

end

/-- Settles O44: the whole block stands from index 0. -/
theorem blockByteIsPacketDataOrFill : Obligations.BlockByteIsPacketDataOrFill := by
  intro g pdl npk rem fill packets q hpdl hnpk hrun hq counter
  have hcover : rem ≤ npk * pdl - 0 * pdl := by
    rw [zero_mul, Nat.sub_zero, mul_comm, ← ceilDiv_le_iff hpdl, hnpk]
  have hbyte := isPacketByte_blockBytes (fill := fill) hpdl hrun hcover hq
  rwa [zero_add] at hbyte

end Sys2Proof.Machine
end

section
/-! PROOFS of the statements of 42_download.md, part 5: the receive loop over the packets that arrive (R207 to R213). -/

namespace Sys2Proof.Machine

open Sys2Proof Sys2Proof.Config

section

variable {s t u : State} {p : Port} {f : FileId} {bs d rest : List Byte} {ds : List (List Byte)} {more : List Bool}
  {files : List (FileId × List Byte)} (type counter : Byte) (size : Word) (blen : Half)

/-! ## A packet at the front of `pktbuf` -/

theorem packetCounter_append {g : Params} (hoff : g.pktSeqOff + 1 < d.length) (tail : List Byte) :
    packetCounter g (d ++ tail) = packetCounter g d := by
  rw [packetCounter_eq, packetCounter_eq, List.getD_append _ _ _ _ (by omega), List.getD_append _ _ _ _ hoff]

theorem packetBytes_append {pdl : Nat} (hd : 5 + pdl ≤ d.length) (fill : Byte) (rem n : Nat) (tail : List Byte) :
    packetBytes pdl fill rem n (d ++ tail) = packetBytes pdl fill rem n d := by
  have hown : ownLength pdl rem n ≤ pdl := Nat.min_le_right ..
  rw [packetBytes, packetBytes, packetData, packetData, List.drop_append_of_le_length (by rw [pktHdrLen]; omega),
    List.take_append_of_le_length]
  rw [List.length_drop, pktHdrLen]
  omega

/-! ## The indices of a block -/

/-- One answer is needed for each index up to the end of the block. -/
theorem LoopBudget.answers (h : LoopBudget s) (hpdl : 1 ≤ s.dlPdl.toNat) :
    ceilDiv s.rem s.dlPdl.toNat = s.npk - s.idx := by
  have hrem := h.rem
  have hnpk := h.npk
  have hlen : s.dlBlockLen.toNat ≤ s.dlPdl.toNat * s.npk := (ceilDiv_le_iff hpdl).mp hnpk.ge
  refine le_antisymm ((ceilDiv_le_iff hpdl).mpr ?_) ?_
  · rw [Nat.mul_sub, mul_comm _ s.idx]
    omega
  · have hrest : s.rem ≤ s.dlPdl.toNat * ceilDiv s.rem s.dlPdl.toNat := (ceilDiv_le_iff hpdl).mp le_rfl
    have hle : s.npk ≤ s.idx + ceilDiv s.rem s.dlPdl.toNat := by
      rw [hnpk, ceilDiv_le_iff hpdl, mul_add, mul_comm _ s.idx]
      omega
    omega

theorem LoopBudget.covered (h : LoopBudget s) (hpdl : 1 ≤ s.dlPdl.toNat) :
    s.rem ≤ s.npk * s.dlPdl.toNat - s.idx * s.dlPdl.toNat := by
  rw [← Nat.sub_mul, mul_comm, ← ceilDiv_le_iff hpdl, h.answers hpdl]

/-- The budget after `n + 1` more indices. -/
theorem LoopBudget.next_indices (h : LoopBudget s) (n : Nat) (hpdl : t.dlPdl = s.dlPdl)
    (hlen : t.dlBlockLen = s.dlBlockLen) (hnpk : t.npk = s.npk) (hrem : t.rem = s.rem - (n + 1) * s.dlPdl.toNat)
    (hidx : t.idx = s.idx + n + 1) : LoopBudget t := by
  refine ⟨?_, ?_⟩
  · rw [hnpk, hlen, hpdl]
    exact h.npk
  · have hbudget := h.rem
    rw [hrem, hidx, hlen, hpdl, Nat.succ_mul, Nat.succ_mul, Nat.add_mul]
    omega

/-! ## One turn of the receive loop -/

/-- What the receive loop leaves alone. -/
structure LoopFrame (s t : State) : Prop where
  cfg : t.cfg = s.cfg
  pdl : t.dlPdl = s.dlPdl
  fill : t.dlFill = s.dlFill
  link : t.linkOwner = s.linkOwner
  session : t.sessionOwner = s.sessionOwner
  fde : t.fdeState = s.fdeState
  wire : t.wireOut = s.wireOut
  csr : t.csr = s.csr
  now : t.now = s.now

theorem LoopFrame.trans (h : LoopFrame s t) (h' : LoopFrame t u) : LoopFrame s u where
  cfg := h'.cfg.trans h.cfg
  pdl := h'.pdl.trans h.pdl
  fill := h'.fill.trans h.fill
  link := h'.link.trans h.link
  session := h'.session.trans h.session
  fde := h'.fde.trans h.fde
  wire := h'.wire.trans h.wire
  csr := h'.csr.trans h.csr
  now := h'.now.trans h.now

/-- The receive loop is to read the packets `ds` and leave `rest` in the queue, with an answer of the sink settled for
each index up to the end of the block. -/
structure Receiving (s : State) (f : FileId) (ds : List (List Byte)) (rest : List Byte) (more : List Bool) : Prop where
  pdl : 1 ≤ s.dlPdl.toNat
  budget : LoopBudget s
  fits : s.cfg.pktLen s.dlPdl.toNat ≤ s.pktbuf.length
  counter : s.cfg.pktSeqOff + 1 < 5
  cur : s.sink.cur = some f
  present : fileContent s f ≠ none
  packets : burstRun s.cfg s.dlPdl.toNat s.npk s.idx ds
  queue : s.rxq = ds.flatten ++ rest
  answers : s.sinkAnswers = List.replicate (s.npk - s.idx) true ++ more

/-- `s` with the packet `d` taken from the queue, which leaves `rest`, in the first attempt. -/
def packetTaken (s : State) (d rest : List Byte) : State :=
  { s with tries := s.dlRetry.toNat, rxq := rest, pktbuf := d ++ s.pktbuf.drop d.length }

/-- The registers of port `p` after a packet of `n` bytes, at position `pos`. -/
def takenPort (s : State) (p : Port) (n : Nat) (pos : RunPos) : Port :=
  { packetPort s p n with pos := pos, waiting := false }

/-- `s` with the packet `d` taken and its counter looked at. -/
def packetChecked (s : State) (d rest : List Byte) : State :=
  { packetTaken s d rest with seq := packetCounter s.cfg d }

/-- R207, R208: from the head of the loop to the look at the counter. -/
theorem execTimes_dl_take (hp : s.actsAt p .loop) (hidx : s.idx < s.npk) (hd : d.length = s.cfg.pktLen s.dlPdl.toNat)
    (hfits : d.length ≤ s.pktbuf.length) (hq : s.rxq = d ++ rest) :
    execTimes (d.length + 1 + 1) (.dl type counter size blen) s =
      .next ((packetTaken s d rest).putPort (takenPort s p d.length .check)) := by
  have hattempt : ({ s with tries := s.dlRetry.toNat + 1 }.putPort { p with pos := .attempt, waiting := false }).actsAt
      { p with pos := .attempt, waiting := false } .attempt := actsAt_putPort hp.acting hp.inRun rfl
  refine (execTimes_succ (exec_dl_loop_next hp hidx)).trans ?_
  refine (execTimes_dl_attempt type counter size blen hattempt (Nat.succ_pos _) hd hq hfits).trans ?_
  simp [State.putPort, packetTaken, takenPort, packetPort]

/-- R211: the counter of the packet taken is not below the index expected. -/
theorem exec_dl_check_taken (hp : s.actsAt p .loop) (hoff : s.cfg.pktSeqOff + 1 < d.length)
    (hseq : s.idx ≤ packetCounter s.cfg d) :
    exec (.dl type counter size blen) ((packetTaken s d rest).putPort (takenPort s p d.length .check)) =
      .next ((packetChecked s d rest).putPort (takenPort s p d.length .deliver)) := by
  have hcounter : packetCounter s.cfg (packetTaken s d rest).pktbuf = packetCounter s.cfg d :=
    packetCounter_append hoff _
  have hcheck := actsAt_putPort (s := packetTaken s d rest) (q := takenPort s p d.length .check) hp.acting hp.inRun rfl
  refine (exec_dl_check_goes_on hcheck (hcounter ▸ hseq)).trans ?_
  simp [State.putPort, packetChecked, takenPort, ← hcounter, packetTaken]

/-- The writes of the packet taken rest on what the loop rests on. -/
theorem Receiving.writable (h : Receiving s f (d :: ds) rest more) (tail : List Byte) (q : Port) :
    Writable ((packetChecked s d tail).putPort q) f where
  pdl := h.pdl
  fits := by
    obtain ⟨_, hd, _, _⟩ := h.packets
    exact (length_of_burstRun h.packets).trans ((List.length_append (as := d)).symm ▸ Nat.le_add_right ..)
  cur := h.cur
  present := h.present

/-- The answers settled for the indices up to the counter of `d`, and those that are left. -/
theorem Receiving.answers_of_packet (h : Receiving s f (d :: ds) rest more) :
    s.sinkAnswers = List.replicate (min (missing s.cfg s.idx d + 1) (ceilDiv s.rem s.dlPdl.toNat)) true ++
      (List.replicate (s.npk - (packetCounter s.cfg d + 1)) true ++ more) := by
  obtain ⟨hidx, _, hseq, _⟩ := h.packets
  rw [h.answers, ← List.append_assoc, ← List.replicate_add, h.budget.answers h.pdl, missing]
  congr 2
  omega

/-- `s` after the fill and the data of the packet `d`, which leaves `rest` in the queue and `more` of the answers. -/
def turnDone (s : State) (f : FileId) (files : List (FileId × List Byte)) (d rest : List Byte) (more : List Bool)
    (q q' : Port) : State :=
  (packetWritten ((packetChecked s d rest).putPort q) (missing s.cfg s.idx d) f files
    (List.replicate (s.npk - (packetCounter s.cfg d + 1)) true ++ more)).putPort q'

theorem turnDone_rem (s : State) (f : FileId) (files : List (FileId × List Byte)) (d rest : List Byte)
    (more : List Bool) (q q' : Port) :
    (turnDone s f files d rest more q q').rem = s.rem - (missing s.cfg s.idx d + 1) * s.dlPdl.toNat :=
  rem_after_packet s.dlPdl.toNat s.rem (missing s.cfg s.idx d)

theorem counter_eq_add_missing {g : Params} {i : Nat} (h : i ≤ packetCounter g d) :
    packetCounter g d = i + missing g i d := by
  rw [missing]
  omega

/-- After the packet `d` the loop is to read the others. -/
theorem Receiving.after_turn (h : Receiving s f (d :: ds) rest more) (hgrown : FileGrown f bs s.sink.files files)
    (q q' : Port) : Receiving (turnDone s f files d (ds.flatten ++ rest) more q q') f ds rest more := by
  obtain ⟨_, hd, hseq, hrest⟩ := h.packets
  have hfits := h.fits
  have hbuf : (d ++ s.pktbuf.drop d.length).length = s.pktbuf.length := by
    rw [List.length_append, List.length_drop]
    omega
  exact {
    pdl := h.pdl
    budget := h.budget.next_indices (missing s.cfg s.idx d) rfl rfl rfl (turnDone_rem ..)
      (congrArg (· + 1) (counter_eq_add_missing hseq))
    fits := hfits.trans_eq hbuf.symm
    counter := h.counter
    cur := rfl
    present := by
      obtain ⟨old, hold⟩ := Option.ne_none_iff_exists'.mp h.present
      exact Option.ne_none_iff_exists'.mpr ⟨_, hgrown.content_of_some hold⟩
    packets := hrest
    queue := rfl
    answers := rfl }

/-- R207 to R212: one packet of the run, from the head of the loop to the head of the loop. -/
theorem Receiving.execTimes_dl_turn (h : Receiving s f (d :: ds) rest more) (hp : s.actsAt p .loop) :
    ∃ n t p', execTimes n (.dl type counter size blen) s = .next t ∧ t.actsAt p' .loop ∧ Receiving t f ds rest more ∧
      t.idx = packetCounter s.cfg d + 1 ∧ t.rem = s.rem - (missing s.cfg s.idx d + 1) * s.dlPdl.toNat ∧
      LoopFrame s t ∧
      FileGrown f (packetBytes s.dlPdl.toNat s.dlFill s.rem (missing s.cfg s.idx d) d) s.sink.files t.sink.files := by
  have hfive := length_of_burstRun h.packets
  obtain ⟨hidx, hd, hseq, _⟩ := h.packets
  have hcounter := h.counter
  have hq : s.rxq = d ++ (ds.flatten ++ rest) := by rw [h.queue, List.flatten_cons, List.append_assoc]
  have htake := execTimes_dl_take type counter size blen hp hidx hd (hd ▸ h.fits) hq
  have hcheck := exec_dl_check_taken (rest := ds.flatten ++ rest) type counter size blen hp (by omega) hseq
  have hdeliver : ((packetChecked s d (ds.flatten ++ rest)).putPort (takenPort s p d.length .deliver)).actsAt
      (takenPort s p d.length .deliver) .deliver := actsAt_putPort hp.acting hp.inRun rfl
  obtain ⟨files, hwrite, hgrown⟩ := (h.writable _ _).execTimes_dl_packet type counter size blen hdeliver
    (counter_eq_add_missing hseq) h.answers_of_packet
  refine ⟨_, turnDone s f files d (ds.flatten ++ rest) more _ _, _,
    (execTimes_add htake).trans ((execTimes_succ hcheck).trans hwrite), actsAt_putPort hdeliver.acting hp.inRun rfl,
    h.after_turn hgrown _ _, rfl, turnDone_rem .., ?_, ?_⟩
  · constructor <;> rfl
  · rw [← packetBytes_append hfive]
    exact hgrown

/-- R207, R213: the turns of the receive loop over the packets `ds`, and its end. -/
theorem Receiving.execTimes_dl_loop (h : Receiving s f ds rest more) (hp : s.actsAt p .loop) :
    ∃ n t p', execTimes n (.dl type counter size blen) s = .next t ∧ t.actsAt p' .blockEnd ∧ t.rem = 0 ∧
      t.rxq = rest ∧ t.sinkAnswers = more ∧ LoopFrame s t ∧
      FileGrown f (blockBytes s.cfg s.dlPdl.toNat s.dlFill s.idx s.rem ds) s.sink.files t.sink.files := by
  induction ds generalizing s p with
  | nil =>
    have hend : s.npk ≤ s.idx := h.packets
    have hanswers : s.sinkAnswers = more := by rw [h.answers, Nat.sub_eq_zero_of_le hend]; rfl
    refine ⟨1, _, _, execTimes_succ (exec_dl_loop_end hp hend), actsAt_putPort hp.acting hp.inRun rfl,
      h.budget.rem_eq_zero h.pdl hend, h.queue, hanswers, ?_, FileGrown.refl f _⟩
    constructor <;> rfl
  | cons d ds ih =>
    obtain ⟨n, t, p', hturn, hp', h', hidx, hrem, hframe, hgrown⟩ := h.execTimes_dl_turn type counter size blen hp
    obtain ⟨n', u, p'', hloop, hend, hzero, hq, hmore, hframe', hgrown'⟩ := ih h' hp'
    refine ⟨n + n', u, p'', (execTimes_add hturn).trans hloop, hend, hzero, hq, hmore, hframe.trans hframe', ?_⟩
    rw [hframe.cfg, hframe.pdl, hframe.fill, hidx, hrem] at hgrown'
    rw [blockBytes_cons]
    exact hgrown.trans hgrown'

end

/-- Settles O43: the loop over the packets, the length of what they append, and the frame. -/
theorem burstReconstructsTheBlock : Obligations.BurstReconstructsTheBlock := by
  intro s p type counter size blen f old packets rest more hp hpdl hnpk hrem hfits hoff hcur hold hrun hq hanswers bytes
  have h : Receiving s f packets rest more :=
    ⟨hpdl, ⟨hnpk, hrem⟩, hfits, hoff, hcur, by simp [hold], hrun, hq, hanswers⟩
  obtain ⟨n, t, p', hexec, hend, hzero, hrest, hmore, hframe, hgrown⟩ := h.execTimes_dl_loop type counter size blen hp
  exact ⟨n, t, p', hexec, hend, hzero, hrest, length_blockBytes hrun (h.budget.covered hpdl),
    hgrown.content_of_some hold, hgrown.others, hmore, hframe.link, hframe.session, hframe.fde, hframe.wire, hframe.csr,
    hframe.now⟩

end Sys2Proof.Machine
end

section
/-! PROOFS of the statements of 43_system.md: the one step of CSRW and of CSRR, and what the control registers show. -/

namespace Sys2Proof.Machine

open Sys2Proof Sys2Proof.Config

/-! ## The index of a control register (10_state.md R37) -/

theorem ofIndex_index (r : Csr) : Csr.ofIndex r.index = some r := by cases r <;> rfl

theorem index_injective : Function.Injective Csr.index := by
  intro r r' h
  have hr := ofIndex_index r
  rw [h, ofIndex_index] at hr
  exact (Option.some.inj hr).symm

/-- The indices a CSRW may name are the implemented ones without those of the read-only views (R37, R47 to R51). -/
theorem not_mem_writable_iff (index : Byte) :
    index ∉ [0x00, 0x01, 0x02, 0x03, 0x04, 0x05, 0x06, 0x07, 0x10] ↔
      index ∉ [0x00, 0x01, 0x02, 0x03, 0x04, 0x05, 0x06, 0x07, 0x10, 0x11, 0x12, 0x13, 0x14, 0x15] ∨
        index ∈ [0x11, 0x12, 0x13, 0x14, 0x15] := by
  have happend : index ∈ [0x00, 0x01, 0x02, 0x03, 0x04, 0x05, 0x06, 0x07, 0x10, 0x11, 0x12, 0x13, 0x14, 0x15] ↔
      index ∈ [0x00, 0x01, 0x02, 0x03, 0x04, 0x05, 0x06, 0x07, 0x10] ∨ index ∈ [0x11, 0x12, 0x13, 0x14, 0x15] :=
    List.mem_append (s := [0x00, 0x01, 0x02, 0x03, 0x04, 0x05, 0x06, 0x07, 0x10]) (t := [0x11, 0x12, 0x13, 0x14, 0x15])
  have hdisjoint : ∀ b ∈ [(0x00 : Byte), 0x01, 0x02, 0x03, 0x04, 0x05, 0x06, 0x07, 0x10],
      b ∉ [0x11, 0x12, 0x13, 0x14, 0x15] := by decide
  have hview := hdisjoint index
  rw [happend]
  tauto

theorem csrw_operandsLegal_eq_true {g : Params} {index : Byte} {v : Word}
    (h : (Instr.csrw index v).operandsLegal g = true) : ∃ r, Csr.ofIndex index = some r ∧ r.writeLegal g v = true := by
  rw [Instr.operandsLegal] at h
  cases hr : Csr.ofIndex index with
  | none =>
    rw [hr] at h
    cases h
  | some r =>
    rw [hr] at h
    exact ⟨r, rfl, h⟩

/-! ## The step of CSRW (R250) -/

section

variable {s : State} {p : Port} {index : Byte} {r : Csr}

theorem exec_csrw_start {v : Word} (hp : s.actsAt p .start) (hr : Csr.ofIndex index = some r)
    (hlegal : r.writeLegal s.cfg v = true) : exec (.csrw index v) s = .next (csrwBody r v s p) := by
  have hstep : exec (.csrw index v) s = execCsrw index v s := rfl
  rw [hstep, execCsrw, oneStep_start _ hp.acting hp.inRun hp.position]
  simp only [hr, hlegal, if_true]

/-- R46: a write of STATUS touches the overflow flag alone. -/
theorem clearOverflow_eq (s : State) (v : Word) :
    clearOverflow s v = { s with rxOverflow := if v.getLsbD 3 then false else s.rxOverflow } := by
  unfold clearOverflow
  split <;> rfl

theorem csrwBody_status (v : Word) (s : State) (p : Port) :
    csrwBody .status v s p = respond (clearOverflow s v) p .ok [] := rfl

theorem csrwBody_linkOwned (v : Word) (p : Port) (hr : r ≠ .status) (hlink : s.linkOwner ≠ none) :
    csrwBody r v s p = raiseError s p .linkBusy := by
  rw [csrwBody, if_neg hr, if_pos hlink]

theorem csrwBody_sessionOwned (v : Word) (p : Port) (hr : r ≠ .status) (hlink : s.linkOwner = none)
    (hsession : s.sessionOwner ≠ none) : csrwBody r v s p = raiseError s p .sessionBusy := by
  rw [csrwBody, if_neg hr, if_neg (not_not_intro hlink), if_pos hsession]

theorem csrwBody_free (v : Word) (p : Port) (hr : r ≠ .status) (hlink : s.linkOwner = none)
    (hsession : s.sessionOwner = none) :
    csrwBody r v s p = respond { s with csr := csrWrite s.csr r v } p .ok [] := by
  rw [csrwBody, if_neg hr, if_neg (not_not_intro hlink), if_neg (not_not_intro hsession)]

/-- Every answer of a legal write: empty data, and a status that is not the one of an illegal write. -/
theorem csrwBody_answers (r : Csr) (v : Word) (s : State) (p : Port) :
    ∃ u st, csrwBody r v s p = respond u p st [] ∧ st ≠ .badDescriptor ∧ u.ports = s.ports ∧ u.actor = s.actor := by
  by_cases hr : r = .status
  · subst hr
    exact ⟨_, .ok, csrwBody_status v s p, by decide, by rw [clearOverflow_eq], by rw [clearOverflow_eq]⟩
  by_cases hlink : s.linkOwner = none
  · by_cases hsession : s.sessionOwner = none
    · exact ⟨_, .ok, csrwBody_free v p hr hlink hsession, by decide, rfl, rfl⟩
    · exact ⟨s, .sessionBusy, csrwBody_sessionOwned v p hr hlink hsession, by decide, rfl, rfl⟩
  · exact ⟨s, .linkBusy, csrwBody_linkOwned v p hr hlink, by decide, rfl, rfl⟩

/-- The response of the acting port stands at its place. -/
theorem respond_get_actor {u : State} (st : Status) (data : List Byte) (hp : s.ports[s.actor]? = some p)
    (hports : u.ports = s.ports) (hactor : u.actor = s.actor) :
    (respond u p st data).ports[s.actor]? = some (p.finish st data) := by
  have hlt : s.actor < s.ports.length := (List.getElem?_eq_some_iff.mp hp).1
  rw [← hactor]
  exact putPort_get_actor u _ (by rw [hactor, hports]; exact hlt)

end

/-- Settles O13: the illegal operands are answered by `exec_illegal`, all others by `csrwBody_answers`. -/
theorem csrwRefusesIllegalWrites : Obligations.CsrwRefusesIllegalWrites := by
  intro s p index v hp illegal
  have hillegal : (Instr.csrw index v).operandsLegal s.cfg = false ↔ illegal := by
    rw [csrw_operandsLegal_eq_false, ← or_assoc, ← not_mem_writable_iff]
  refine ⟨fun h => exec_illegal hp (hillegal.mpr h), fun h => ?_⟩
  obtain ⟨r, hr, hlegal⟩ := csrw_operandsLegal_eq_true (Bool.eq_true_of_not_eq_false (mt hillegal.mp h))
  obtain ⟨u, st, hbody, hst, hports, hactor⟩ := csrwBody_answers r v s p
  refine ⟨respond u p st [], st, ?_, respond_get_actor st [] hp.acting hports hactor, hst⟩
  rw [exec_csrw_start hp hr hlegal, hbody]

/-- Settles O12: one lemma per branch of R250. -/
theorem csrwWritesTheRegister : Obligations.CsrwWritesTheRegister := by
  intro s p index r v hp hr hlegal
  rw [exec_csrw_start hp hr hlegal]
  refine ⟨?_, fun hne hlink => ?_, fun hne hlink hsession => ?_, fun hne hlink hsession => ?_⟩
  · rintro rfl
    rw [csrwBody_status, clearOverflow_eq, respond]
  · rw [csrwBody_linkOwned v p hne hlink, raiseError, respond]
  · rw [csrwBody_sessionOwned v p hne hlink hsession, raiseError, respond]
  · rw [csrwBody_free v p hne hlink hsession, respond]

/-! ## What a CSRR shows after a write (R37, R250) -/

/-- A write, register by register. -/
theorem csrWrite_eq (c : Csrs) (r : Csr) (v : Word) : csrWrite c r v =
    { rxByteTimeout := if r = .rxByteTimeout then v else c.rxByteTimeout
      txDoneTimeout := if r = .txDoneTimeout then v else c.txDoneTimeout
      linkAcqTimeout := if r = .linkAcqTimeout then v else c.linkAcqTimeout
      sessionAcqTimeout := if r = .sessionAcqTimeout then v else c.sessionAcqTimeout
      pktRetryBudget := if r = .pktRetryBudget then v else c.pktRetryBudget
      pktDataLen := if r = .pktDataLen then v else c.pktDataLen
      pollBudget := if r = .pollBudget then v else c.pollBudget
      gapFillByte := if r = .gapFillByte then v else c.gapFillByte } := by
  cases r <;> rfl

@[simp] theorem csrRead_putPort (s : State) (p : Port) (r : Csr) : csrRead (s.putPort p) r = csrRead s r := by
  cases r <;> rfl

/-- The register written shows the value written; a view takes no write, and STATUS stores none. -/
theorem csrRead_csrWrite_same {s : State} {r : Csr} {v : Word} (hr : r ≠ .status)
    (hlegal : r.writeLegal s.cfg v = true) : csrRead { s with csr := csrWrite s.csr r v } r = v := by
  cases r with
  | status => exact absurd rfl hr
  | rxLevel | dlOffset | dlSize | dlBlockLen | dlIndex => cases hlegal
  | _ => rfl

theorem csrRead_csrWrite_of_ne (s : State) {r r' : Csr} (v : Word) (h : r' ≠ r) :
    csrRead { s with csr := csrWrite s.csr r v } r' = csrRead s r' := by
  cases r' with
  | status | rxLevel | dlOffset | dlSize | dlBlockLen | dlIndex => rfl
  | _ =>
    rw [csrRead, csrWrite_eq]
    exact if_neg h.symm

/-- Settles O16: the write of `csrwBody_free`, then the reads of the register written and of the others. -/
theorem writtenRegisterReadsBack : Obligations.WrittenRegisterReadsBack := by
  intro s t p index r v hp hr hne hlegal hlink hsession hexec
  rw [exec_csrw_start hp hr hlegal, csrwBody_free v p hne hlink hsession] at hexec
  cases hexec
  simp only [respond, csrRead_putPort]
  exact ⟨csrRead_csrWrite_same hne hlegal, fun r' hother => csrRead_csrWrite_of_ne s v hother⟩

/-! ## What a CSRR shows of each register (10_state.md R37 to R51) -/

/-- What register `r` itself holds, cut to the bits of its view, whether or not its view shows it. -/
def heldWord (s : State) : Csr → Word
  | .rxLevel => BitVec.ofNat 32 s.rxq.length
  | .dlOffset => BitVec.ofNat 32 s.dlOffset
  | .dlSize => s.dlSize
  | .dlBlockLen => BitVec.ofNat 32 s.dlBlockLen.toNat
  | .dlIndex => BitVec.ofNat 32 (s.idx % 131072)
  | r => csrRead s r

/-- A view of a written register shows what the register holds; so does RX_LEVEL when the count fits (log 7, 27). -/
theorem csrRead_eq_heldWord {s : State} {r : Csr} (hwritten : viewUnwritten s r = false)
    (hlevel : r = .rxLevel → s.rxq.length < 4294967296) : csrRead s r = heldWord s r := by
  cases r with
  | rxLevel => exact levelWord_of_lt (hlevel rfl)
  | dlOffset | dlIndex =>
    rw [viewUnwritten, Bool.not_eq_false'] at hwritten
    rw [csrRead, hwritten, shown_of_written, heldWord]
  | dlSize =>
    rw [viewUnwritten, Bool.not_eq_false'] at hwritten
    rw [csrRead, hwritten, shown_of_written, heldWord, BitVec.ofNat_toNat, BitVec.setWidth_eq]
  | dlBlockLen =>
    rw [viewUnwritten, Bool.not_eq_false'] at hwritten
    rw [csrRead, hwritten, shown_of_written, heldWord, Nat.mod_eq_of_lt s.dlBlockLen.isLt]
  | _ => rfl

/-- Which views show a draw, by their index (R48 to R51, R55). -/
theorem viewUnwritten_iff (s : State) (r : Csr) : viewUnwritten s r = true ↔
    (r.index ∈ [0x12, 0x13, 0x14] ∧ s.sessionLatched = false) ∨ (r.index = 0x15 ∧ s.indexSet = false) := by
  cases r <;> simp [viewUnwritten, Csr.index]

theorem drawView_of_written {s : State} {r : Csr} (h : viewUnwritten s r = false) : drawView s r = s := by
  rw [drawView, if_neg (Bool.eq_false_iff.mp h)]

theorem drawView_of_unwritten {s : State} {r : Csr} (h : viewUnwritten s r = true) :
    drawView s r = { s with draws := s.draws + 1 } := if_pos h

/-- R50: 16 bits, a draw or not. -/
theorem csrRead_dlBlockLen_lt (s : State) : (csrRead s .dlBlockLen).toNat < 65536 := by
  rw [csrRead, BitVec.toNat_ofNat]
  omega

/-- R51: 17 bits, a draw or not. -/
theorem csrRead_dlIndex_lt (s : State) : (csrRead s .dlIndex).toNat < 131072 := by
  rw [csrRead, BitVec.toNat_ofNat]
  omega

/-! ## The step of CSRR (R251) -/

theorem exec_csrr_start {s : State} {p : Port} {r : Csr} (hp : s.actsAt p .start) :
    exec (.csrr r.index) s = .next (respond (drawView s r) p .ok (wordBytes (csrRead s r))) := by
  have hstep : exec (.csrr r.index) s = execCsrr r.index s := rfl
  rw [hstep, execCsrr, oneStep_start _ hp.acting hp.inRun hp.position]
  simp only [ofIndex_index]

theorem exec_csrr_written {s : State} {p : Port} {r : Csr} (hp : s.actsAt p .start)
    (hwritten : viewUnwritten s r = false) :
    exec (.csrr r.index) s = .next (s.putPort (p.finish .ok (wordBytes (csrRead s r)))) := by
  rw [exec_csrr_start hp, drawView_of_written hwritten, respond]

theorem exec_csrr_unwritten {s : State} {p : Port} {r : Csr} (hp : s.actsAt p .start)
    (hunwritten : viewUnwritten s r = true) :
    exec (.csrr r.index) s =
      .next ({ s with draws := s.draws + 1 }.putPort (p.finish .ok (wordBytes (csrRead s r)))) := by
  rw [exec_csrr_start hp, drawView_of_unwritten hunwritten, respond]

/-- Settles O14: the statement's table is `heldWord` over `Csr.all`, so each of its rows is that of one register. -/
theorem csrrReadsTheRegisterOfItsIndex : Obligations.CsrrReadsTheRegisterOfItsIndex := by
  intro s p index hp map bytes unwritten
  have hmap : map = Csr.all.map (fun r => (r.index, heldWord s r)) := rfl
  have hbytes : bytes = wordBytes := funext fun v => (leBytes_four_toNat v).symm
  rw [hbytes]
  refine ⟨fun v hv hwritten hlevel => ?_, fun hunwritten => ?_, ?_, fun hreserved => ?_⟩
  · rw [hmap] at hv
    obtain ⟨r, _, hrow⟩ := List.mem_map.mp hv
    obtain ⟨rfl, rfl⟩ := Prod.mk.inj hrow
    have hw : viewUnwritten s r = false := Bool.eq_false_iff.mpr (mt (viewUnwritten_iff s r).mp hwritten)
    rw [exec_csrr_written hp hw, csrRead_eq_heldWord hw (fun hr => hlevel (hr ▸ rfl))]
  · have himpl : (Csr.ofIndex index).isSome = true := by
      rw [isSome_ofIndex]
      rcases hunwritten with ⟨hmem, _⟩ | ⟨rfl, _⟩
      · exact List.mem_append_right [0x00, 0x01, 0x02, 0x03, 0x04, 0x05, 0x06, 0x07, 0x10, 0x11]
          (List.mem_append_left [0x15] hmem)
      · decide
    obtain ⟨r, hr⟩ := Option.isSome_iff_exists.mp himpl
    obtain rfl := ofIndex_eq_some hr
    refine ⟨csrRead s r, fun hi => ?_, fun hi => ?_, exec_csrr_unwritten hp ((viewUnwritten_iff s r).mpr hunwritten)⟩
    · obtain rfl : r = .dlBlockLen := index_injective hi
      exact csrRead_dlBlockLen_lt s
    · obtain rfl : r = .dlIndex := index_injective hi
      exact csrRead_dlIndex_lt s
  · rintro rfl _
    exact ⟨_, exec_csrr_written (r := .rxLevel) hp rfl⟩
  · exact exec_illegal hp (csrr_operandsLegal_eq_false.mpr hreserved)

end Sys2Proof.Machine
end

section
/-! PROOFS of the statements of 60_exceptions.md: the abort of a download, the events, and that every operation answers a
next state. -/

namespace Sys2Proof.Machine

open Sys2Proof Sys2Proof.Config

/-! ## The events (R281, R282) -/

theorem rxPush_of_room {s : State} (b : Byte) (h : s.rxq.length < s.cfg.rxqCap) :
    rxPush b s = { s with rxq := s.rxq ++ [b] } := if_pos h

theorem rxPush_of_full {s : State} (b : Byte) (h : s.cfg.rxqCap ≤ s.rxq.length) :
    rxPush b s = { s with rxOverflow := true } := if_neg h.not_gt

/-- R285: neither event reads what the other writes. -/
theorem rxPush_txEvent (b : Byte) (s : State) : rxPush b (txEvent s) = txEvent (rxPush b s) := by
  rcases lt_or_ge s.rxq.length s.cfg.rxqCap with hroom | hfull
  · rw [rxPush_of_room b hroom, rxPush_of_room (s := txEvent s) b hroom]
    rfl
  · rw [rxPush_of_full b hfull, rxPush_of_full (s := txEvent s) b hfull]
    rfl

/-- Settles O47: the byte's event by the room in the queue; the two orders of the events meet by `rxPush_txEvent`. -/
theorem eventsAreAlwaysEnabled : Obligations.EventsAreAlwaysEnabled := by
  intro s b
  refine ⟨fun hroom => ?_, fun hfull => ?_, rfl, rfl, ?_⟩
  · rw [perform, rxPush_of_room b hroom]
  · rw [perform, rxPush_of_full b hfull]
  · calc performAll [.rx b, .tx] s = .next (txEvent (rxPush b s)) := rfl
      _ = .next (rxPush b (txEvent s)) := by rw [rxPush_txEvent]
      _ = performAll [.tx, .rx b] s := rfl

/-! ## The abort of a download (R288) -/

section

variable {s s' : State} {p : Port} {ok : Bool} {type counter : Byte} {size : Word} {blen : Half}

theorem exec_dl_abort (hp : s.actsAt p .abort) : exec (.dl type counter size blen) s = .next (dlAborted s p) := by
  rw [exec_dl_run hp, dlRun, hp.position]

/-- The answer of the sink does not hang on who owns the link. -/
theorem sinkDraw_setLinkOwner (owner : Option Nat) (h : sinkDraw s = (ok, s')) :
    sinkDraw { s with linkOwner := owner } = (ok, { s' with linkOwner := owner }) := by
  by_cases hanswers : s.sinkAnswers = []
  · obtain ⟨rfl, rfl⟩ := Prod.mk.inj ((sinkDraw_unsettled hanswers).symm.trans h)
    exact sinkDraw_unsettled hanswers
  · obtain ⟨answer, rest, hsettled⟩ := List.exists_cons_of_ne_nil hanswers
    obtain ⟨rfl, rfl⟩ := Prod.mk.inj ((sinkDraw_settled hsettled).symm.trans h)
    exact sinkDraw_settled hsettled

/-- The close keeps every file, whatever the sink answers. -/
theorem sinkClose_eq (h : sinkDraw s = (ok, s')) :
    sinkClose s = (ok, { s' with sink := ⟨s.sink.files, none⟩, sinkOpen := false }) := by
  rw [sinkClose, h, ← sink_of_sinkDraw h]

theorem dlAborted_open (hopen : s.sinkOpen = true) (h : sinkDraw s = (ok, s')) :
    dlAborted s p = { s' with
      linkOwner := if s.linkOwner = some s.actor then none else s.linkOwner
      sink := ⟨s.sink.files, none⟩
      sinkOpen := false
      fdeState := .idle
      sessionOwner := none }.putPort (p.finish p.ret.status p.ret.data) := by
  have hclose := sinkClose_eq (sinkDraw_setLinkOwner (if s.linkOwner = some s.actor then none else s.linkOwner) h)
  rw [dlAborted, freeLink_eq]
  dsimp only
  rw [if_pos hopen, hclose, respond]

theorem dlAborted_notOpen (hclosed : s.sinkOpen = false) :
    dlAborted s p = { s with
      linkOwner := if s.linkOwner = some s.actor then none else s.linkOwner
      fdeState := .idle
      sessionOwner := none }.putPort (p.finish p.ret.status p.ret.data) := by
  simp [dlAborted, freeLink_eq, hclosed, respond]

end

/-- Settles O46: by whether the sink is open. -/
theorem abortReleasesEverything : Obligations.AbortReleasesEverything := by
  intro s s' p ok type counter size blen hp hdraw link
  refine ⟨fun hopen => ?_, fun hclosed => ?_⟩
  · rw [exec_dl_abort hp, dlAborted_open hopen hdraw]
  · rw [exec_dl_abort hp, dlAborted_notOpen hclosed]

/-! ## Every step answers a next state (R270, R287) -/

/-- The step neither stops the machine nor is refused. -/
def Answers (r : Result) : Prop := ∃ t : State, r = .next t

theorem answers_next (t : State) : Answers (.next t) := ⟨t, rfl⟩

/-- A wait takes its event, takes its timeout, or stays (R11). -/
theorem onWait_answers (p : Port) (s : State) (event : Option State) (timeout : State) :
    Answers (onWait p s event timeout) := by
  cases event with
  | some s' => exact answers_next s'
  | none =>
    rw [onWait]
    split
    · exact answers_next timeout
    · exact answers_next s

theorem converse_answers (call : Call) (s : State) (p : Port) : Answers (converse call s p) := by
  rw [converse]
  split
  case h_1 => exact onWait_answers _ _ _ _
  case h_3 =>
    split
    · exact onWait_answers _ _ _ _
    · exact answers_next _
  case h_4 =>
    split
    case h_1 => exact onWait_answers _ _ _ _
    case h_2 => exact onWait_answers _ _ _ _
    case h_3 => exact answers_next _
  all_goals exact answers_next _

theorem dlReturned_answers (s : State) (p : Port) : Answers (dlReturned s p) := by
  rw [dlReturned]
  cases s.fdeState <;> exact answers_next _

theorem dlRun_answers (type counter : Byte) (size : Word) (blen : Half) (s : State) (p : Port) :
    Answers (dlRun type counter size blen s p) := by
  rw [dlRun]
  split
  case h_1 =>
    split
    · exact answers_next _
    · exact answers_next _
  case h_2 => exact onWait_answers _ _ _ _
  case h_8 => exact dlReturned_answers s p
  case h_11 => exact onWait_answers _ _ _ _
  all_goals exact answers_next _

section

variable {s : State} {p : Port}

theorem oneStep_answers (body : Port → State) (hp : s.ports[s.actor]? = some p) : Answers (oneStep s body) := by
  rw [oneStep, withPort_of_get _ hp]
  split
  · exact answers_next _
  · exact answers_next _

theorem converseOperation_answers (i : Instr) (call : Call) (hp : s.ports[s.actor]? = some p) :
    Answers (converseOperation i call s) := by
  rw [converseOperation, withPort_of_get _ hp]
  split
  case h_1 =>
    split
    case h_1 =>
      split
      · exact answers_next _
      · exact answers_next _
    case h_2 => exact answers_next _
    case h_3 => exact answers_next _
  case h_2 => exact converse_answers call s p

theorem execDl_answers (type counter : Byte) (size : Word) (blen : Half) (hp : s.ports[s.actor]? = some p) :
    Answers (execDl type counter size blen s) := by
  rw [execDl, withPort_of_get _ hp]
  split
  case h_1 => exact dlRun_answers type counter size blen s p
  case h_2 =>
    split
    case h_1 call _ => exact converse_answers call s p
    case h_2 => exact answers_next s

theorem exec_answers (i : Instr) (hp : s.ports[s.actor]? = some p) : Answers (exec i s) := by
  cases i with
  | stuff | destuff | csrw | csrr => exact oneStep_answers _ hp
  | tc | tcnr | tm => exact converseOperation_answers _ _ hp
  | dl type counter size blen => exact execDl_answers type counter size blen hp

/-! ## A wait with neither its event nor its timeout stays (R11, R297; log 5) -/

theorem onWait_stays (timeout : State) (hbound : ¬s.boundPassed p) : onWait p s none timeout = .next s := by
  have hwaits : p.timedOut s.now = false := decide_eq_false hbound
  simp [onWait, hwaits]

theorem converse_acquire_stays {call : Call} (hph : p.ph = .acquire) (howned : s.linkOwner ≠ none)
    (hbound : ¬s.boundPassed p) : converse call s p = .next s := by
  obtain ⟨d, hd⟩ := Option.ne_none_iff_exists'.mp howned
  simp [converse, hph, converseAcquire, takeLink, hd, onWait_stays _ hbound]

theorem converse_transmit_stays {call : Call} (hph : p.ph = .transmit) (hwait : p.waiting = true)
    (hdone : s.txDone = false) (hbound : ¬s.boundPassed p) : converse call s p = .next s := by
  simp [converse, hph, hwait, converseTxDone, takeTxDone, hdone, onWait_stays _ hbound]

/-- With no byte in the queue an acknowledgment and a reply wait alike; TCNR does not receive. -/
theorem converse_receive_stays {call : Call} (hph : p.ph = .receive) (hq : s.rxq = []) (hbound : ¬s.boundPassed p) :
    converse call s p = .next s := by
  have hpop : rxPop s = none := by rw [rxPop, hq]
  cases hkind : call.kind with
  | tc => simp [converse, hph, hkind, receiveAck, hpop, onWait_stays _ hbound]
  | tcnr => simp [converse, hph, hkind]
  | tm => simp [converse, hph, hkind, receiveReply, hpop, onWait_stays _ hbound]

theorem dlSession_stays (howned : s.sessionOwner ≠ none) (hbound : ¬s.boundPassed p) : dlSession s p = .next s := by
  obtain ⟨d, hd⟩ := Option.ne_none_iff_exists'.mp howned
  simp [dlSession, takeSession, hd, onWait_stays _ hbound]

theorem dlPacket_stays (hq : s.rxq = []) (hbound : ¬s.boundPassed p) : dlPacket s p = .next s := by
  simp [dlPacket, rxPop, hq, onWait_stays _ hbound]

end

/-- Settles O50: totality by the operation; the three waits of a conversation and the two of a download outside one. -/
theorem everyOperationAnswersANextState : Obligations.EveryOperationAnswersANextState := by
  intro s p i
  refine ⟨exec_answers i, fun call hcall hbound hwait => ?_, ?_⟩
  · rcases hwait with ⟨hp, howned⟩ | ⟨hp, hwaiting, hdone⟩ | ⟨hp, hq⟩
    · rw [exec_conversing hp (by decide) hcall, converse_acquire_stays hp.2 howned hbound]
    · rw [exec_conversing hp (by decide) hcall, converse_transmit_stays hp.2 hwaiting hdone hbound]
    · rw [exec_conversing hp (by decide) hcall, converse_receive_stays hp.2 hq hbound]
  · rintro type counter size blen rfl hbound (⟨hp, howned⟩ | ⟨hp, hq⟩)
    · rw [exec_dl_session hp, dlSession_stays howned hbound]
    · rw [exec_dl_packet hp, dlPacket_stays hq hbound]

end Sys2Proof.Machine
end

section
/-! PROOFS of the statements of 70_reset_and_hazards.md: the configuration registers while a lock is owned, and RESET. -/

namespace Sys2Proof.Machine

open Sys2Proof Sys2Proof.Config

section

variable {s t : State}

/-! ## The control registers while the block is busy (R250, R324) -/

/-- The hypothesis of R324: some port owns the link or the session. -/
def LockOwned (s : State) : Prop := s.linkOwner ≠ none ∨ s.sessionOwner ≠ none

/-- R250: with a lock owned, a write of STATUS touches the overflow flag alone and any other CSRW is answered an error. -/
theorem csrwBody_csr_of_owned (howned : LockOwned s) (r : Csr) (v : Word) (p : Port) :
    (csrwBody r v s p).csr = s.csr := by
  by_cases hr : r = .status
  · subst hr
    rw [csrwBody_status, clearOverflow_eq]
    rfl
  by_cases hlink : s.linkOwner = none
  · have hsession : s.sessionOwner ≠ none := howned.resolve_left (not_not_intro hlink)
    rw [csrwBody_sessionOwned v p hr hlink hsession]
    rfl
  · rw [csrwBody_linkOwned v p hr hlink]
    rfl

theorem drawView_csr (s : State) (r : Csr) : (drawView s r).csr = s.csr := by
  rcases drawView_cases s r with h | h <;> rw [h]

/-- A one-step operation keeps the control registers when its body does. -/
theorem oneStep_csr {body : Port → State} (hbody : ∀ p, (body p).csr = s.csr) (h : oneStep s body = .next t) :
    t.csr = s.csr := by
  obtain ⟨p, _, ⟨_, _, rfl⟩ | rfl⟩ := oneStep_next h
  · exact hbody p
  · rfl

/-- R171: TC, TCNR and TM write no control register. -/
theorem converseOperation_csr {i : Instr} {call : Call} (h : converseOperation i call s = .next t) :
    t.csr = s.csr := by
  obtain ⟨p, hp, _⟩ := converseOperation_next h
  obtain ⟨_, _, _, _, _, _, _, _, _, _, rfl, _⟩ := converseOperation_frame hp h
  rfl

/-- DL reads the control registers into its session and writes none. -/
theorem execDl_csr {type counter : Byte} {size : Word} {blen : Half} (h : execDl type counter size blen s = .next t) :
    t.csr = s.csr := by
  obtain ⟨p, hp, rfl | ⟨_, h⟩ | ⟨_, _, _, h⟩⟩ := execDl_next h
  · rfl
  · obtain ⟨_, _, hframe, _⟩ := dlRun_frame hp h
    exact hframe.csr
  · obtain ⟨_, _, _, _, _, _, _, _, _, _, rfl, _⟩ := converse_frame hp h
    rfl

/-- With a lock owned no step of any operation changes a control register; only CSRW needs the lock for it. -/
theorem exec_csr_of_owned {i : Instr} (howned : LockOwned s) (h : exec i s = .next t) : t.csr = s.csr := by
  cases i with
  | stuff payload => exact oneStep_csr (fun p => by split <;> rfl) h
  | destuff q =>
    refine oneStep_csr (fun p => ?_) h
    split
    · rfl
    · split <;> rfl
  | tc payload => exact converseOperation_csr h
  | tcnr payload => exact converseOperation_csr h
  | tm tlmId req => exact converseOperation_csr h
  | dl type counter size blen => exact execDl_csr h
  | csrw index v =>
    refine oneStep_csr (fun p => ?_) h
    split
    case h_1 => rfl
    case h_2 r _ =>
      split
      case isTrue => exact csrwBody_csr_of_owned howned r v p
      case isFalse => rfl
  | csrr index =>
    refine oneStep_csr (fun p => ?_) h
    split
    case h_1 => rfl
    case h_2 r _ => exact drawView_csr s r

theorem runPort_csr_of_owned {c : Nat} (howned : LockOwned s) (h : runPort c s = .next t) : t.csr = s.csr := by
  rcases runPort_next h with rfl | ⟨p, _, _, _, ⟨i, _, h⟩ | ⟨e, _, _, _, rfl⟩⟩
  · rfl
  · exact exec_csr_of_owned (s := { s with actor := c }) howned h
  · rfl

/-- Every move of every agent but RESET. -/
theorem perform_csr_of_owned {m : Move} (howned : LockOwned s) (hreset : m ≠ .reset) (h : perform m s = .next t) :
    t.csr = s.csr := by
  cases m with
  | issue c d =>
    obtain ⟨_, _, _, rfl⟩ := issue_next h
    rfl
  | collect c =>
    obtain ⟨_, _, _, rfl⟩ := collect_next h
    rfl
  | port c => exact runPort_csr_of_owned howned h
  | rx b =>
    obtain rfl := Host.Outcome.next.inj h
    rcases rxPush_cases b s with ⟨_, hrx⟩ | ⟨_, hrx⟩ <;> rw [hrx]
  | tx =>
    obtain rfl := Host.Outcome.next.inj h
    rfl
  | tick =>
    obtain rfl := Host.Outcome.next.inj h
    rfl
  | sink ok =>
    obtain rfl := Host.Outcome.next.inj h
    rfl
  | reset => exact absurd rfl hreset

end

/-- Settles O17: taking the move leaves the locks and the registers; the move itself is `perform_csr_of_owned`. -/
theorem configurationIsFrozenWhileBusy : Obligations.ConfigurationIsFrozenWhileBusy := by
  intro s t howned hmove h
  obtain ⟨q, d, hnext⟩ := nextMove_frame s
  obtain ⟨_, h⟩ := step_next h
  rw [hnext] at h
  exact perform_csr_of_owned (s := { s with schedule := q, draws := d }) howned hmove h

/-! ## RESET (R310, R311) -/

/-- RESET leaves the block as clean as `State.resetWith` is. -/
theorem resetBlock_clean (s : State) : (resetBlock s).clean := resetWith_clean s.cfg

/-- Settles O51: the block is clean after RESET; the other values stand in the table of `State.resetWith`. -/
theorem resetSetsTheTable : Obligations.ResetSetsTheTable := by
  intro s
  obtain ⟨⟨hports, hlink, hsession, hfde, hsink⟩, hrxq, htx, hoverflow⟩ := resetBlock_clean s
  have hlength : (resetBlock s).ports.length = s.cfg.nCallers := List.length_replicate
  exact ⟨resetBlock s, rfl, hrxq, htx, hoverflow, hlink, rfl, rfl, hlength, hports, hsession, hfde, hsink, rfl, rfl, rfl,
    rfl, rfl⟩

end Sys2Proof.Machine
end
